-- ==== Sys2Proof/Word.lean ====
section
/-! DEFINITION. The plain quantities of the block: bytes and millivolts (spec/00_scope.md R9 and R10). A connection handle
is a number below `2 ^ HANDLE_W` and a timestamp a number of milliseconds below `2 ^ TS_W` (R9, R24, R26; log entry 1): no
rule shifts or masks one, so both are natural numbers, and the decoder and the invariant `State.legal` keep their widths. -/

namespace Sys2Proof

/-- "A byte is 8 bits, an unsigned integer in 0..255" (R10). -/
abbrev Byte := BitVec 8

/-- VOLTS_ENC: a battery voltage as an unsigned 16-bit count of millivolts (R9, R167; log entry 17). -/
abbrev Millivolts := BitVec 16

end Sys2Proof
end

