-- ==== Sys2Proof/Config.lean ====
section
/-! DEFINITION. The constants the document fixes (spec/00_scope.md R8), the parameters it leaves open (R9), and the
free values: opaque constants nothing in Lean can evaluate. -/

namespace Sys2Proof

/-- The two ports on which operations are presented (R85, R88): the radio driver's event port and the control
loop's poll port. -/
inductive Port where
  /-- The E-port (R198). -/
  | ePort
  /-- The P-port (R199). -/
  | pPort
  deriving DecidableEq, Repr, Inhabited

/-- AXIS_REPR (R9, R84, R144): how the rational axis value is rendered on the response port. -/
inductive AxisRepr where
  /-- The default: a two's-complement signed numerator over 255, two bytes. -/
  | numeratorOver255
  /-- Some other rendering; its bytes are the free value `Config.axisRendering` (log entry 8). -/
  | other (code : Nat)
  deriving DecidableEq, Repr

/-- The parameters of R9 that a realisation fixes for its life (R30). No operation writes one. -/
structure Config where
  /-- HANDLE_W: the width in bits of a connection handle. -/
  handleW : Nat
  /-- TS_W: the width in bits of a timestamp. -/
  tsW : Nat
  /-- RX_MAX: the longest write value the event port carries. -/
  rxMax : Nat
  /-- P_LAST_SEND_RESET: `none`, or the timestamp LAST_SEND holds after reset. -/
  lastSendReset : Option Nat
  /-- AXIS_REPR. -/
  axisRepr : AxisRepr
  /-- T_FLAGS. -/
  tFlags : Byte
  /-- T_UUID16. -/
  tUuid16 : Byte
  /-- T_UUID32. -/
  tUuid32 : Byte
  /-- T_UUID128. -/
  tUuid128 : Byte
  /-- T_NAME. -/
  tName : Byte
  /-- T_APPEARANCE. -/
  tAppearance : Byte
  /-- ADV_FLAGS: the flags byte the construction sequence advertises. -/
  advFlags : Byte
  /-- SVC_UUID, 16 bytes in wire order. -/
  svcUuid : Vector Byte 16
  /-- TX_UUID, 16 bytes in wire order. -/
  txUuid : Vector Byte 16
  /-- RX_UUID, 16 bytes in wire order. -/
  rxUuid : Vector Byte 16
  deriving DecidableEq, Repr

namespace Config

/-- Free value: byte `k` of the service UUID; the spec gives the three UUIDs no default (R9, D29; log entry 7). -/
opaque svcUuidByte : Nat → Byte

/-- Free value: byte `k` of the TX characteristic's UUID (R9, D29; log entry 7). -/
opaque txUuidByte : Nat → Byte

/-- Free value: byte `k` of the RX characteristic's UUID (R9, D29; log entry 7). -/
opaque rxUuidByte : Nat → Byte

/-- Free value: the bytes of an axis numerator under a rendering other than the default (R9, R144; log entry 8). -/
opaque axisRendering : Nat → Int → List Byte

/-- Free value: where the `k`-th handle lands among the NOTIFY events of one LNK.SEND; the order among the handles is
not determined (R63, R124; log entry 5). The first argument is the state's counter `free`. -/
opaque notifyPlace : Nat → Nat → Nat

/-- Free value: which port the block serves at its next contention; the order between the ports is not determined
(R58, R196; log entry 4). The argument is the state's counter `free`. -/
opaque arbiterPick : Nat → Port

/-- Sixteen bytes as a vector whose length is evident even when the bytes are free values. -/
def uuidOf (f : Nat → Byte) : Vector Byte 16 :=
  #v[f 0, f 1, f 2, f 3, f 4, f 5, f 6, f 7, f 8, f 9, f 10, f 11, f 12, f 13, f 14, f 15]

/-- The defaults of R9. -/
def default : Config where
  handleW := 16
  tsW := 32
  rxMax := 20
  lastSendReset := none
  axisRepr := .numeratorOver255
  tFlags := 0x01
  tUuid16 := 0x03
  tUuid32 := 0x05
  tUuid128 := 0x07
  tName := 0x09
  tAppearance := 0x19
  advFlags := 0x06
  svcUuid := uuidOf svcUuidByte
  txUuid := uuidOf txUuidByte
  rxUuid := uuidOf rxUuidByte

end Config

/-! ### Constants the document fixes (R8) -/

/-- FRAME_LEN: bytes in a control frame. -/
def FRAME_LEN : Nat := 20

/-- TAG_OK: the value of field 0 of an accepted frame. -/
def TAG_OK : Byte := 1

/-- AXIS_COUNT: axis bytes, fields 1 to 4. -/
def AXIS_COUNT : Nat := 4

/-- AXIS_CENTER: the raw centre value of an axis. -/
def AXIS_CENTER : Byte := 127

/-- AXIS_DIVISOR, the rational 255/2, as numerator and denominator. -/
def AXIS_DIVISOR : Nat × Nat := (255, 2)

/-- BUTTON_COUNT: bits of the button mask. -/
def BUTTON_COUNT : Nat := 16

/-- SERVO_MIN. -/
def SERVO_MIN : Nat := 0

/-- SERVO_MAX. -/
def SERVO_MAX : Nat := 180

/-- SERVO_DEFAULT: the angle when no frame of sufficient length exists. -/
def SERVO_DEFAULT : Byte := 90

/-- NEUTRAL_FRAME: the canonical default neutral frame. -/
def NEUTRAL_FRAME : List Byte :=
  [0x01, 0x7F, 0x7F, 0x7F, 0x7F, 0, 0, 0, 0, 0, 0, 0, 0, 0, 0, 0, 0, 0, 0, 0]

/-- TLM_LEN: bytes in a telemetry frame. -/
def TLM_LEN : Nat := 11

/-- LABEL_LEN: label bytes of a telemetry frame. -/
def LABEL_LEN : Nat := 8

/-- TLM_MIN_INTERVAL_MS: the minimum time between telemetry sends. -/
def TLM_MIN_INTERVAL_MS : Nat := 500

/-- V_GREEN, the rational 38/5, as numerator and denominator. -/
def V_GREEN : Nat × Nat := (38, 5)

/-- V_YELLOW, the rational 7, as numerator and denominator. -/
def V_YELLOW : Nat × Nat := (7, 1)

/-- COLOR_GREEN: the battery colour at or above V_GREEN. -/
def COLOR_GREEN : BitVec 24 := 0x00FF00

/-- COLOR_YELLOW: the battery colour at or above V_YELLOW and below V_GREEN. -/
def COLOR_YELLOW : BitVec 24 := 0xFFFF00

/-- COLOR_RED: the battery colour below V_YELLOW. -/
def COLOR_RED : BitVec 24 := 0xFF0000

/-- ADV_LIMIT: "the BLE advertising size limit (≤31 bytes excluding framing)". No operation tests it: the encoder does not
check its result's size against it (R101, R102), and AG.INIT tests ADV_CAP (R181). -/
def ADV_LIMIT : Nat := 31

/-- ADV_CAP: capacity of the advertising-payload register (R9, D24). -/
def ADV_CAP : Nat := 31

/-- NAME_MAX: bytes of device name the caller must truncate to; the block does not truncate (R181). -/
def NAME_MAX : Nat := 8

end Sys2Proof
end

