-- ==== Sys2Proof/Syntax.lean ====
section
/-! DEFINITION. The 23 operations of spec/opcode_table.json with their operands (spec/30_encoding.md R82, R83), one
constructor per row. -/

namespace Sys2Proof

/-- The characteristic selector of a write event (R83 format W): 0 = TX, 1 = RX, 2..255 = any other attribute. -/
inductive CharSel where
  | tx
  | rx
  | other (sel : Byte)
  deriving DecidableEq, Repr

/-- The radio driver's answer to the construction requests (R83 format N, R181): a free input of AG.INIT. -/
inductive RStat where
  | allSucceeded
  | activationFailed
  | registrationFailed
  | advertiseFailed
  deriving DecidableEq, Repr

/-- One operation with its operands. Byte-sequence operands are lists; an absent option is `none`. -/
inductive Instr where
  /-- EV.CONN, a central connected (R121). -/
  | evConn (handle : Nat)
  /-- EV.DISC, a central disconnected (R122). -/
  | evDisc (handle : Nat)
  /-- EV.WRITE, a central wrote a characteristic (R123). -/
  | evWrite (handle : Nat) (char : CharSel) (value : List Byte)
  /-- CF.WRITE, adopt a written value or go neutral (R141). -/
  | cfWrite (raw : List Byte)
  /-- LNK.ISCONN, is any central connected (R126). -/
  | lnkIsconn
  /-- LNK.SEND, notify every connected central (R124). -/
  | lnkSend (bytes : List Byte)
  /-- CF.RAWAXIS, raw axis byte (R143). -/
  | cfRawaxis (i : Byte)
  /-- CF.AXIS, normalised axis value (R145). -/
  | cfAxis (i : Byte)
  /-- CF.BUTTON, one button (R147). -/
  | cfButton (n : Byte)
  /-- CF.SERVO, servo angle (R148). -/
  | cfServo
  /-- TM.BUILD, pack a telemetry frame (R161). -/
  | tmBuild (label color : List Byte)
  /-- TM.TRYSEND, rate-limited send (R164). -/
  | tmTrysend (label color : List Byte) (now : Nat)
  /-- TM.BATT, report the battery voltage (R167). -/
  | tmBatt (mv : Millivolts) (now : Nat)
  /-- ADV.ENC, encode an advertising payload (R101). -/
  | advEnc (flags : Byte) (name : Option (List Byte)) (uuids : List (List Byte)) (appearance : Option (BitVec 16))
  /-- ADV.DECF, the values of the records of one type (R103). -/
  | advDecf (code : Byte) (payload : List Byte)
  /-- ADV.DECN, the device name (R105). -/
  | advDecn (payload : List Byte)
  /-- ADV.DECS, the service UUIDs (R106). -/
  | advDecs (payload : List Byte)
  /-- AG.INIT, the construction sequence (R181). -/
  | agInit (rstat : RStat) (name : List Byte)
  /-- AG.ISCONN (R183). -/
  | agIsconn
  /-- AG.GETAXIS (R183). -/
  | agGetaxis (i : Byte)
  /-- AG.GETBTN (R183). -/
  | agGetbtn (n : Byte)
  /-- AG.GETSERVO (R183). -/
  | agGetservo
  /-- AG.BATT (R184); `now` is filled by the LinkAgent wrapper. -/
  | agBatt (mv : Millivolts) (now : Nat)
  deriving DecidableEq, Repr

/-- The operation names alone: the rows of the operation map (R82). -/
inductive Op where
  | evConn
  | evDisc
  | evWrite
  | cfWrite
  | lnkIsconn
  | lnkSend
  | cfRawaxis
  | cfAxis
  | cfButton
  | cfServo
  | tmBuild
  | tmTrysend
  | tmBatt
  | advEnc
  | advDecf
  | advDecn
  | advDecs
  | agInit
  | agIsconn
  | agGetaxis
  | agGetbtn
  | agGetservo
  | agBatt
  deriving DecidableEq, Repr

end Sys2Proof
end

