-- ==== Sys2Proof/WellFormed.lean ====
section
/-! DEFINITION. Which operations the command transport can carry (spec/30_encoding.md R83, R87), and which
configurations R9 allows. -/

namespace Sys2Proof

/-- A selector byte of 2..255 is what "any other attribute" means (R83 format W). -/
def CharSel.wf : CharSel → Bool
  | .tx => true
  | .rx => true
  | .other sel => decide (2 ≤ sel.toNat)

/-- A byte sequence whose length fits a length byte (R83). -/
def fitsLenByte (bytes : List Byte) : Bool := decide (bytes.length ≤ 255)

/-- "`w` is 2, 4 or 16" (R83 format A). -/
def uuidWidthOk (uuid : List Byte) : Bool := uuid.length == 2 || uuid.length == 4 || uuid.length == 16

/-- `v` is a number of `w` bits: "for every `h` in 0..2^HANDLE_W - 1" (R24). -/
def fitsWidth (w v : Nat) : Bool := decide (v < 2 ^ w)

/-- The operations that some command of R83 spells under a configuration. -/
def Instr.wf (c : Config) : Instr → Bool
  | .evConn handle => fitsWidth c.handleW handle
  | .evDisc handle => fitsWidth c.handleW handle
  | .evWrite handle char value =>
      fitsWidth c.handleW handle && char.wf && fitsLenByte value && decide (value.length ≤ c.rxMax)
  | .cfWrite raw => fitsLenByte raw
  | .lnkIsconn => true
  | .lnkSend bytes => fitsLenByte bytes
  | .cfRawaxis _ => true
  | .cfAxis _ => true
  | .cfButton _ => true
  | .cfServo => true
  | .tmBuild label color => fitsLenByte label && fitsLenByte color
  | .tmTrysend label color now => fitsLenByte label && fitsLenByte color && fitsWidth c.tsW now
  | .tmBatt _ now => fitsWidth c.tsW now
  | .advEnc _ name uuids _ =>
      fitsLenByte (name.getD []) && decide (uuids.length ≤ 255) && uuids.all uuidWidthOk
  | .advDecf _ payload => fitsLenByte payload
  | .advDecn payload => fitsLenByte payload
  | .advDecs payload => fitsLenByte payload
  | .agInit _ name => fitsLenByte name
  | .agIsconn => true
  | .agGetaxis _ => true
  | .agGetbtn _ => true
  | .agGetservo => true
  | .agBatt _ now => fitsWidth c.tsW now

/-- The six type codes, in the order of R9. -/
def Config.typeCodes (c : Config) : List Byte :=
  [c.tFlags, c.tUuid16, c.tUuid32, c.tUuid128, c.tName, c.tAppearance]

/-- The ranges of the parameters (R9 and the summary of spec/92_eei_decisions.md): HANDLE_W "1 or more", TS_W "10 or
more", RX_MAX "at least 20 and at most 255", P_LAST_SEND_RESET `none` or a TS_W-bit timestamp, the six type codes
"pairwise distinct". -/
def Config.wf (c : Config) : Bool :=
  decide (1 ≤ c.handleW) && decide (10 ≤ c.tsW) && decide (20 ≤ c.rxMax) && decide (c.rxMax ≤ 255) &&
    fitsWidth c.tsW (c.lastSendReset.getD 0) && decide c.typeCodes.Nodup

end Sys2Proof
end

