-- ==== Sys2Proof/Decode.lean ====
section
/-! DEFINITION. The command transport (spec/30_encoding.md R81 to R88): the operation map, the decoder from the bytes
of a presented command to an operation, total and rejecting by name, and the encoder written from the same tables. -/

namespace Sys2Proof

/-! ### The operation map (R82) -/

/-- The operation an instruction is a form of. -/
def Instr.op : Instr → Op
  | .evConn _ => .evConn
  | .evDisc _ => .evDisc
  | .evWrite _ _ _ => .evWrite
  | .cfWrite _ => .cfWrite
  | .lnkIsconn => .lnkIsconn
  | .lnkSend _ => .lnkSend
  | .cfRawaxis _ => .cfRawaxis
  | .cfAxis _ => .cfAxis
  | .cfButton _ => .cfButton
  | .cfServo => .cfServo
  | .tmBuild _ _ => .tmBuild
  | .tmTrysend _ _ _ => .tmTrysend
  | .tmBatt _ _ => .tmBatt
  | .advEnc _ _ _ _ => .advEnc
  | .advDecf _ _ => .advDecf
  | .advDecn _ => .advDecn
  | .advDecs _ => .advDecs
  | .agInit _ _ => .agInit
  | .agIsconn => .agIsconn
  | .agGetaxis _ => .agGetaxis
  | .agGetbtn _ => .agGetbtn
  | .agGetservo => .agGetservo
  | .agBatt _ _ => .agBatt

/-- The operation byte of R82. -/
def Op.byte : Op → Byte
  | .evConn => 0x01
  | .evDisc => 0x02
  | .evWrite => 0x03
  | .cfWrite => 0x04
  | .lnkIsconn => 0x10
  | .lnkSend => 0x11
  | .cfRawaxis => 0x20
  | .cfAxis => 0x21
  | .cfButton => 0x22
  | .cfServo => 0x23
  | .tmBuild => 0x30
  | .tmTrysend => 0x31
  | .tmBatt => 0x32
  | .advEnc => 0x40
  | .advDecf => 0x41
  | .advDecn => 0x42
  | .advDecs => 0x43
  | .agInit => 0x50
  | .agIsconn => 0x51
  | .agGetaxis => 0x52
  | .agGetbtn => 0x53
  | .agGetservo => 0x54
  | .agBatt => 0x55

/-- The port that admits the operation (R82, R88). -/
def Op.port : Op → Port
  | .evConn => .ePort
  | .evDisc => .ePort
  | .evWrite => .ePort
  | .cfWrite => .ePort
  | .lnkIsconn => .pPort
  | .lnkSend => .pPort
  | .cfRawaxis => .pPort
  | .cfAxis => .pPort
  | .cfButton => .pPort
  | .cfServo => .pPort
  | .tmBuild => .pPort
  | .tmTrysend => .pPort
  | .tmBatt => .pPort
  | .advEnc => .pPort
  | .advDecf => .pPort
  | .advDecn => .pPort
  | .advDecs => .pPort
  | .agInit => .pPort
  | .agIsconn => .pPort
  | .agGetaxis => .pPort
  | .agGetbtn => .pPort
  | .agGetservo => .pPort
  | .agBatt => .pPort

/-- The 23 rows of the operation map. -/
def Op.all : List Op :=
  [.evConn, .evDisc, .evWrite, .cfWrite, .lnkIsconn, .lnkSend, .cfRawaxis, .cfAxis, .cfButton, .cfServo,
   .tmBuild, .tmTrysend, .tmBatt, .advEnc, .advDecf, .advDecn, .advDecs, .agInit,
   .agIsconn, .agGetaxis, .agGetbtn, .agGetservo, .agBatt]

/-- "The full byte is compared (mask 0xFF)" (R82); `none` for a reserved operation byte (R87). -/
def Op.ofByte (b : Byte) : Option Op := Op.all.find? fun o => o.byte == b

/-- The port on which an operation is presented and answered. -/
def Instr.port (i : Instr) : Port := i.op.port

/-! ### Little-endian quantities (R81, R83) -/

/-- `u16`, least significant byte first. -/
def le16 (v : BitVec 16) : List Byte := [v.extractLsb' 0 8, v.extractLsb' 8 8]

/-- The first `n` bytes of a number, least significant byte first. -/
def leBytes : Nat → Nat → List Byte
  | 0, _ => []
  | n + 1, v => BitVec.ofNat 8 v :: leBytes n (v / 256)

/-- The bytes that carry `w` bits: `ceil(w / 8)` (R81). -/
def bytesOf (w : Nat) : Nat := (w + 7) / 8

/-- A `w`-bit quantity, least significant byte first (R81); a handle or a timestamp. -/
def leField (w v : Nat) : List Byte := leBytes (bytesOf w) v

/-- A length or count byte. -/
def lenByte {α : Type} (l : List α) : Byte := BitVec.ofNat 8 l.length

/-- A length byte and then the bytes (R83 formats B, L, T, N). -/
def lenBytes (l : List Byte) : List Byte := lenByte l :: l

/-! ### The decoder -/

/-- Why presented bytes spell no operation of the port: the reasons of the verdict `invalid` (R87, R88). -/
inductive Invalid where
  /-- No operation byte was presented (log entry 12). -/
  | noBytes
  /-- "Every value of the operation byte not in rule R82 … is reserved." -/
  | reservedOp (op : Byte)
  /-- A fixed field, or a `len` larger than the bytes that follow. -/
  | truncated
  /-- More bytes were presented than the command's fields take (log entry 12). -/
  | trailing
  /-- A handle of more than HANDLE_W bits or a timestamp of more than TS_W bits (log entry 1). -/
  | aboveWidth
  /-- "`len` above RX_MAX in format W". -/
  | aboveRxMax
  /-- "`present[7:2]` not 0". -/
  | reservedPresent
  /-- "`nlen` not 0 with `present[0]` = 0". -/
  | nameNotPresent
  /-- "`w` not in {2, 4, 16} in format A". -/
  | uuidWidth (w : Byte)
  /-- "`rstat` above 3". -/
  | rstatAbove3
  /-- "A command on the wrong port is `invalid`" (R88). -/
  | wrongPort
  deriving DecidableEq, Repr

/-- One byte. -/
def takeU8 : List Byte → Except Invalid (Byte × List Byte)
  | [] => .error .truncated
  | b :: bs => .ok (b, bs)

/-- Two bytes, least significant first. -/
def takeU16 : List Byte → Except Invalid (BitVec 16 × List Byte)
  | b0 :: b1 :: bs => .ok (b1 ++ b0, bs)
  | _ => .error .truncated

/-- A number of `n` bytes, least significant first. -/
def takeLe : Nat → List Byte → Except Invalid (Nat × List Byte)
  | 0, bs => .ok (0, bs)
  | _ + 1, [] => .error .truncated
  | n + 1, b :: bs => do
      let (high, rest) ← takeLe n bs
      .ok (b.toNat + 256 * high, rest)

/-- A `w`-bit quantity in `ceil(w / 8)` bytes; its unused high bits must be 0 (log entry 1). -/
def takeField (w : Nat) (bs : List Byte) : Except Invalid (Nat × List Byte) := do
  let (v, bs) ← takeLe (bytesOf w) bs
  if v < 2 ^ w then .ok (v, bs) else .error .aboveWidth

/-- `bytes(n)` of R83: exactly `n` raw bytes. -/
def takeBytes : Nat → List Byte → Except Invalid (List Byte × List Byte)
  | 0, bs => .ok ([], bs)
  | _ + 1, [] => .error .truncated
  | n + 1, b :: bs => do
      let (taken, rest) ← takeBytes n bs
      .ok (b :: taken, rest)

/-- A length byte and that many bytes. -/
def takeLenBytes (bs : List Byte) : Except Invalid (List Byte × List Byte) := do
  let (len, bs) ← takeU8 bs
  takeBytes len.toNat bs

/-- `char:u8` of format W. -/
def CharSel.ofByte (b : Byte) : CharSel :=
  if b = 0 then .tx else if b = 1 then .rx else .other b

/-- `rstat:u8` of format N. -/
def RStat.ofByte (b : Byte) : Except Invalid RStat :=
  if b = 0 then .ok .allSucceeded
  else if b = 1 then .ok .activationFailed
  else if b = 2 then .ok .registrationFailed
  else if b = 3 then .ok .advertiseFailed
  else .error .rstatAbove3

/-- `n` times `(w:u8, uuid:bytes(w))` of format A. -/
def takeUuids : Nat → List Byte → Except Invalid (List (List Byte) × List Byte)
  | 0, bs => .ok ([], bs)
  | n + 1, bs => do
      let (w, bs) ← takeU8 bs
      if w = 2 ∨ w = 4 ∨ w = 16 then
        let (uuid, bs) ← takeBytes w.toNat bs
        let (uuids, bs) ← takeUuids n bs
        .ok (uuid :: uuids, bs)
      else .error (.uuidWidth w)

/-- Format Z: no operands. -/
def formatZ (mk : Instr) (bs : List Byte) : Except Invalid (Instr × List Byte) := .ok (mk, bs)

/-- Format I: `idx:u8`. -/
def formatI (mk : Byte → Instr) (bs : List Byte) : Except Invalid (Instr × List Byte) := do
  let (idx, bs) ← takeU8 bs
  .ok (mk idx, bs)

/-- Format H: `handle`. -/
def formatH (c : Config) (mk : Nat → Instr) (bs : List Byte) : Except Invalid (Instr × List Byte) := do
  let (handle, bs) ← takeField c.handleW bs
  .ok (mk handle, bs)

/-- Format W: `handle, char:u8, len:u8, data:bytes(len)`, `len` in 0..RX_MAX. -/
def formatW (c : Config) (bs : List Byte) : Except Invalid (Instr × List Byte) := do
  let (handle, bs) ← takeField c.handleW bs
  let (char, bs) ← takeU8 bs
  let (len, bs) ← takeU8 bs
  if c.rxMax < len.toNat then .error .aboveRxMax
  else
    let (value, bs) ← takeBytes len.toNat bs
    .ok (.evWrite handle (CharSel.ofByte char) value, bs)

/-- Format B: `len:u8, data:bytes(len)`. -/
def formatB (mk : List Byte → Instr) (bs : List Byte) : Except Invalid (Instr × List Byte) := do
  let (data, bs) ← takeLenBytes bs
  .ok (mk data, bs)

/-- Format T: `type:u8, len:u8, data:bytes(len)`. -/
def formatT (mk : Byte → List Byte → Instr) (bs : List Byte) : Except Invalid (Instr × List Byte) := do
  let (code, bs) ← takeU8 bs
  let (data, bs) ← takeLenBytes bs
  .ok (mk code data, bs)

/-- Format L: `llen:u8, label:bytes(llen), clen:u8, color:bytes(clen)`. -/
def formatL (mk : List Byte → List Byte → Instr) (bs : List Byte) : Except Invalid (Instr × List Byte) := do
  let (label, bs) ← takeLenBytes bs
  let (color, bs) ← takeLenBytes bs
  .ok (mk label color, bs)

/-- Format S: format L, then `now`. -/
def formatS (c : Config) (mk : List Byte → List Byte → Nat → Instr) (bs : List Byte) :
    Except Invalid (Instr × List Byte) := do
  let (label, bs) ← takeLenBytes bs
  let (color, bs) ← takeLenBytes bs
  let (now, bs) ← takeField c.tsW bs
  .ok (mk label color now, bs)

/-- Format V: `mv:u16, now`. -/
def formatV (c : Config) (mk : Millivolts → Nat → Instr) (bs : List Byte) :
    Except Invalid (Instr × List Byte) := do
  let (mv, bs) ← takeU16 bs
  let (now, bs) ← takeField c.tsW bs
  .ok (mk mv now, bs)

/-- Format A: `present:u8, flags:u8, nlen:u8, name:bytes(nlen), ucount:u8, ucount times (w:u8, uuid:bytes(w)), app:u16`;
"`app` is ignored when `present[1]` = 0". Each field is judged as it is read (log entry 11). -/
def formatA (bs : List Byte) : Except Invalid (Instr × List Byte) := do
  let (present, bs) ← takeU8 bs
  if present.extractLsb' 2 6 ≠ 0 then .error .reservedPresent
  else
    let (flags, bs) ← takeU8 bs
    let (nlen, bs) ← takeU8 bs
    if present.getLsbD 0 = false ∧ nlen ≠ 0 then .error .nameNotPresent
    else
      let (name, bs) ← takeBytes nlen.toNat bs
      let (ucount, bs) ← takeU8 bs
      let (uuids, bs) ← takeUuids ucount.toNat bs
      let (app, bs) ← takeU16 bs
      .ok (.advEnc flags (if present.getLsbD 0 then some name else none) uuids
        (if present.getLsbD 1 then some app else none), bs)

/-- Format N: `rstat:u8, nlen:u8, name:bytes(nlen)`. -/
def formatN (bs : List Byte) : Except Invalid (Instr × List Byte) := do
  let (b, bs) ← takeU8 bs
  let rstat ← RStat.ofByte b
  let (name, bs) ← takeLenBytes bs
  .ok (.agInit rstat name, bs)

/-- The operands of an operation, in the format R82 gives it, and the bytes after them. -/
def decodeOperands (c : Config) : Op → List Byte → Except Invalid (Instr × List Byte)
  | .evConn => formatH c .evConn
  | .evDisc => formatH c .evDisc
  | .evWrite => formatW c
  | .cfWrite => formatB .cfWrite
  | .lnkIsconn => formatZ .lnkIsconn
  | .lnkSend => formatB .lnkSend
  | .cfRawaxis => formatI .cfRawaxis
  | .cfAxis => formatI .cfAxis
  | .cfButton => formatI .cfButton
  | .cfServo => formatZ .cfServo
  | .tmBuild => formatL .tmBuild
  | .tmTrysend => formatS c .tmTrysend
  | .tmBatt => formatV c .tmBatt
  | .advEnc => formatA
  | .advDecf => formatT .advDecf
  | .advDecn => formatB .advDecn
  | .advDecs => formatB .advDecs
  | .agInit => formatN
  | .agIsconn => formatZ .agIsconn
  | .agGetaxis => formatI .agGetaxis
  | .agGetbtn => formatI .agGetbtn
  | .agGetservo => formatZ .agGetservo
  | .agBatt => formatV c .agBatt

/-- The operation at the head of a byte sequence and the bytes after it: "the length of a command is determined by its
operation byte and its length fields" (R81, R89). -/
def decodeHead (c : Config) : List Byte → Except Invalid (Instr × List Byte)
  | [] => .error .noBytes
  | b :: bs =>
    match Op.ofByte b with
    | none => .error (.reservedOp b)
    | some op => decodeOperands c op bs

/-- The command decoder: a presented command is "one operation byte followed by that operation's operand bytes" (R81)
and nothing more (log entry 12). -/
def decode (c : Config) (bytes : List Byte) : Except Invalid Instr :=
  match decodeHead c bytes with
  | .error why => .error why
  | .ok (i, []) => .ok i
  | .ok (_, _ :: _) => .error .trailing

/-! ### The encoder -/

/-- `char:u8` of format W. -/
def CharSel.byte : CharSel → Byte
  | .tx => 0
  | .rx => 1
  | .other sel => sel

/-- `rstat:u8` of format N. -/
def RStat.byte : RStat → Byte
  | .allSucceeded => 0
  | .activationFailed => 1
  | .registrationFailed => 2
  | .advertiseFailed => 3

/-- `present:u8` of format A. -/
def presentByte (name : Option (List Byte)) (appearance : Option (BitVec 16)) : Byte :=
  (if name.isSome then 1 else 0) + (if appearance.isSome then 2 else 0)

/-- The operand bytes of R83. The ignored `app` of an absent appearance is written 0 (log entry 16). -/
def encodeOperands (c : Config) : Instr → List Byte
  | .evConn handle => leField c.handleW handle
  | .evDisc handle => leField c.handleW handle
  | .evWrite handle char value => leField c.handleW handle ++ char.byte :: lenBytes value
  | .cfWrite raw => lenBytes raw
  | .lnkIsconn => []
  | .lnkSend bytes => lenBytes bytes
  | .cfRawaxis i => [i]
  | .cfAxis i => [i]
  | .cfButton n => [n]
  | .cfServo => []
  | .tmBuild label color => lenBytes label ++ lenBytes color
  | .tmTrysend label color now => lenBytes label ++ lenBytes color ++ leField c.tsW now
  | .tmBatt mv now => le16 mv ++ leField c.tsW now
  | .advEnc flags name uuids appearance =>
      presentByte name appearance :: flags :: lenBytes (name.getD []) ++
        lenByte uuids :: uuids.flatMap lenBytes ++ le16 (appearance.getD 0)
  | .advDecf code payload => code :: lenBytes payload
  | .advDecn payload => lenBytes payload
  | .advDecs payload => lenBytes payload
  | .agInit rstat name => rstat.byte :: lenBytes name
  | .agIsconn => []
  | .agGetaxis i => [i]
  | .agGetbtn n => [n]
  | .agGetservo => []
  | .agBatt mv now => le16 mv ++ leField c.tsW now

/-- The command that spells an operation (R81). -/
def encode (c : Config) (i : Instr) : List Byte := i.op.byte :: encodeOperands c i

/-! ### Words of the operation table -/

/-- Zero bytes after a table word. A word of one byte leaves every length field 0, and then a handle or a timestamp and
at most 6 bytes follow; a longer word may hold length fields, and no command has more than 4600 other bytes. -/
def zeroTail (c : Config) (nbits : Nat) : Nat :=
  bytesOf c.handleW + bytesOf c.tsW + if nbits ≤ 8 then 8 else 4600

/-- The bytes of a table word, bit 0 the least significant bit of the first byte, and zeros after them. -/
def tableBytes (c : Config) (nbits w : Nat) : List Byte :=
  (List.range ((nbits + 7) / 8)).map (fun k => BitVec.ofNat 8 (w / 256 ^ k)) ++ List.replicate (zeroTail c nbits) 0

/-- The operation the decoder reads from a table word whose operand bytes above `nbits` are 0, at the defaults. -/
def decodeTableWord (nbits w : Nat) : Option Instr :=
  match decodeHead Config.default (tableBytes Config.default nbits w) with
  | .ok (i, _) => some i
  | .error _ => none

/-- The command a table word begins: its bytes, and as many zero operand bytes as its fields take. -/
def tableCommand (c : Config) (nbits w : Nat) : List Byte :=
  match decodeHead c (tableBytes c nbits w) with
  | .ok (_, rest) => (tableBytes c nbits w).take ((tableBytes c nbits w).length - rest.length)
  | .error _ => tableBytes c nbits w

end Sys2Proof
end

