-- ==== Sys2Proof/Machine/State.lean ====
section
/-! DEFINITION. The state of the block as plain data (spec/10_state.md R20 to R36), the output events and answers it
gives, and its value after reset. -/

namespace Sys2Proof.Machine

/-- Which construction request failed (R181, R192). -/
inductive InitStage where
  | activate
  | register
  | advertise
  deriving DecidableEq, Repr

/-- A GATT characteristic property by name; "a model holds the properties as sets of names" (R86). -/
inductive GattProp where
  | read
  | notify
  | write
  | writeWithoutResponse
  deriving DecidableEq, Repr

/-- An output event of the O-port (R86). -/
inductive OutEvent where
  /-- RADIO_ACTIVATE. -/
  | radioActivate
  /-- IRQ_REGISTER. -/
  | irqRegister
  /-- GATT_REGISTER(SVC_UUID, TX_UUID, txprops, RX_UUID, rxprops). -/
  | gattRegister (svc tx : Vector Byte 16) (txProps : List GattProp) (rx : Vector Byte 16) (rxProps : List GattProp)
  /-- ADVERTISE(payload). -/
  | advertise (payload : List Byte)
  /-- NOTIFY(handle, TX, bytes): always on the TX characteristic. -/
  | notify (handle : Nat) (bytes : List Byte)
  deriving DecidableEq, Repr

/-- What an operation that completed returns (R84). -/
inductive Result where
  /-- No result bytes. -/
  | done
  /-- A boolean. -/
  | bool (b : Bool)
  /-- A raw axis byte. -/
  | raw (b : Byte)
  /-- A servo angle in degrees. -/
  | angle (deg : Byte)
  /-- An axis value, the rational `num / 255` (R144). -/
  | axis (num : Int)
  /-- A telemetry frame. -/
  | frame (bytes : List Byte)
  /-- An encoded advertising payload. -/
  | payload (bytes : List Byte)
  /-- The value slices of ADV.DECF. -/
  | values (vs : List (List Byte))
  /-- A device name, empty when absent. -/
  | name (bytes : List Byte)
  /-- The service UUIDs of ADV.DECS. -/
  | uuids (us : List (List Byte))
  deriving DecidableEq, Repr

/-- What a port gets back for a command: the response of an operation (R190, R92), or the command decoder's verdict on
bytes that spell no operation of the port (R87, R88). -/
inductive Answer where
  /-- `ok(result)`, status OK. -/
  | ok (r : Result)
  /-- `InitError(which)`, status E_INIT. -/
  | initError (which : InitStage)
  /-- The transport verdict `invalid`. -/
  | invalid (why : Invalid)
  deriving DecidableEq, Repr

/-- The block has no fault: "there is no fault bit, no error register" (R190), malformed input is absorbed (R191), and
the command decoder's `invalid` is a verdict after which the block goes on (R87, log entry 11). Raised by nothing. -/
inductive Fault where
  deriving DecidableEq, Repr

/-- The refusals of R193: uses outside the contract, to which "the spec gives … no meaning and a model must not give it
one" (R92, R190). All are safe: the model stops where the spec says nothing (log entry 13). -/
inductive Refusal where
  /-- An operation with no meaning yet; raised by no arm of `exec`. Safe. -/
  | notModelled (mnemonic : String)
  /-- AG.INIT with INITD = 1. Safe. -/
  | alreadyConstructed
  /-- AG.INIT, the built payload is longer than ADV_CAP. Safe. -/
  | payloadTooLong
  /-- ADV.ENC (and AG.INIT, which invokes it), a name longer than 254 bytes. Safe. -/
  | valueTooLong
  /-- ADV.ENC, a UUID whose length is not 2, 4 or 16. Safe. -/
  | badUuidWidth
  /-- ADV.ENC, a result longer than 255 bytes. Safe. -/
  | resultTooLong
  /-- TM.BUILD and TM.TRYSEND, a label byte of 0x80 or above. Safe. -/
  | nonAsciiLabel
  /-- Every ADV operation and AG.INIT, the six type codes not pairwise distinct. Safe. -/
  | badConfiguration
  deriving DecidableEq, Repr

/-- The whole state. The first seven fields are the configuration and the architectural state of spec/10_state.md; the
others are the model's own: the operations waiting at the two ports, the arbiter, and what the block has given out. -/
structure State where
  /-- The parameters of R9, fixed for the life of the block (R30, log entry 6). -/
  cfg : Config
  /-- FRAME and FLEN as the current frame `CUR = x[0 .. FLEN-1]`: "a model may equally hold the pair (FRAME, FLEN) as one
  byte list of length at most 20" (R22, log entry 9). -/
  frame : List Byte
  /-- CONN as the finite set of present handles (R24), in strictly ascending order so that equal sets are equal data. -/
  conn : List Nat
  /-- LAST_SEND (R26). -/
  lastSend : Nat
  /-- LS_VALID (R26). -/
  lsValid : Bool
  /-- ADVP and ADVP_LEN as the content `ADVP[0 .. ADVP_LEN-1]` (R27, log entry 9). -/
  advp : List Byte
  /-- INITD (R28). -/
  initd : Bool
  /-- Model's own: the commands the radio driver's context has still to present on the E-port, oldest first
  (R58, R198, R224; log entry 2). -/
  eport : List (List Byte)
  /-- Model's own: the commands the control loop has still to present on the P-port, oldest first
  (R58, R199, R224; log entry 2). -/
  pport : List (List Byte)
  /-- Model's own: the port served when both have a command waiting (R58, R196; log entry 4). -/
  turn : Port
  /-- Model's own: the counter from which free values are drawn (log entries 4 and 5). -/
  free : Nat
  /-- Model's own: the O-port's event sequence so far, oldest first (R32, R63; log entry 3). -/
  oport : List OutEvent
  /-- Model's own: the answers given so far, each with its port, oldest first (R84; log entry 3). -/
  answers : List (Port × Answer)
  deriving DecidableEq, Repr

/-- The state after reset under a configuration (R36, R221). LAST_SEND with no P_LAST_SEND_RESET is "unspecified and
unread"; it is held as 0 (log entry 10). -/
def State.resetWith (c : Config) : State where
  cfg := c
  frame := []
  conn := []
  lastSend := c.lastSendReset.getD 0
  lsValid := c.lastSendReset.isSome
  advp := []
  initd := false
  eport := []
  pport := []
  turn := .ePort
  free := 0
  oport := []
  answers := []

/-- The state after reset at the default parameters of R9. -/
def State.reset : State := State.resetWith Config.default

end Sys2Proof.Machine
end

