-- ==== Sys2Proof/Machine/Ops.lean ====
section
/-! DEFINITION. The named operations over the state: every write of a register, the O-port and the answers go through
one of these, and so does the one exception of the block. -/

namespace Sys2Proof.Machine

/-- The outcome of one operation. -/
abbrev Outcome := Host.Outcome State Fault Refusal

/-! ### Registers -/

/-- Replace FRAME and FLEN together (R23): the whole current frame in one atomic step. -/
def State.setFrame (s : State) (frame : List Byte) : State := { s with frame := frame }

/-- Replace the connection set. -/
def State.setConn (s : State) (conn : List Nat) : State := { s with conn := conn }

/-- `LAST_SEND <- now; LS_VALID <- 1` (R164). -/
def State.recordSend (s : State) (now : Nat) : State := { s with lastSend := now, lsValid := true }

/-- `ADVP <- p; ADVP_LEN <- len(p); INITD <- 1` (R181). -/
def State.loadPayload (s : State) (p : List Byte) : State := { s with advp := p, initd := true }

/-! ### The connection set (R24) -/

/-- `CONN[h] <- 1` on the ascending list of present handles; a present handle stays once (R121). -/
def connInsert (h : Nat) : List Nat → List Nat
  | [] => [h]
  | g :: gs => if h < g then h :: g :: gs else if h = g then g :: gs else g :: connInsert h gs

/-- `CONN[h] <- 0` (R122). -/
def connErase (h : Nat) (conn : List Nat) : List Nat := conn.filter fun g => g ≠ h

/-- The canonical form of the connection set: strictly ascending, so unique and equal sets are equal lists. -/
def connCanonical (conn : List Nat) : Bool := decide (conn.Pairwise fun g h => g < h)

/-! ### Output events and answers -/

/-- Append output events to the O-port's sequence, in the order given (R63). -/
def State.emits (s : State) (events : List OutEvent) : State := { s with oport := s.oport ++ events }

/-- Give an answer on a port. -/
def State.respond (s : State) (p : Port) (a : Answer) : State := { s with answers := s.answers ++ [(p, a)] }

/-- Complete an operation with `ok(result)` on the port that issued it (R190). -/
def complete (p : Port) (r : Result) (s : State) : Outcome := .next (s.respond p (.ok r))

/-- The block's one exception (R190, R192, R197): `raise InitError(which)` ends AG.INIT with status E_INIT on the
P-port, and saves, masks, vectors and changes nothing; there is no return from it (log entry 14). -/
def raiseInitError (which : InitStage) (s : State) : Outcome := .next (s.respond .pPort (.initError which))

/-- Draw one free value: the counter moves on. -/
def State.draw (s : State) : State := { s with free := s.free + 1 }

/-- Put `x` at place `k` of a list, at the end when the list is shorter. -/
def insertAt {α : Type} (x : α) : List α → Nat → List α
  | [], _ => [x]
  | y :: ys, 0 => x :: y :: ys
  | y :: ys, k + 1 => y :: insertAt x ys k

/-- A list in the order a free choice of places gives; every permutation is some choice's (R63). -/
def arrange {α : Type} (place : Nat → Nat) : List α → List α
  | [] => []
  | x :: xs => insertAt x (arrange place xs) (place xs.length)

/-- The notifications of R124: one NOTIFY of the same bytes per member of CONN, in an undetermined order. -/
def State.notifyAll (s : State) (bytes : List Byte) : State :=
  (s.emits ((arrange (Config.notifyPlace s.free) s.conn).map fun h => .notify h bytes)).draw

/-! ### Presenting an operation (R57, R58, R196) -/

/-- What the block serves next: a port, the command at its head, and the state with that command taken. With both ports
waiting, `turn` says which goes first, and the turn after it is a free value. `none` when no command waits. -/
def select (s : State) : Option (Port × List Byte × State) :=
  match s.eport, s.pport with
  | [], [] => none
  | c :: es, [] => some (.ePort, c, { s with eport := es })
  | [], c :: ps => some (.pPort, c, { s with pport := ps })
  | c :: es, d :: ps =>
    match s.turn with
    | .ePort => some (.ePort, c, { s with eport := es, turn := Config.arbiterPick s.free, free := s.free + 1 })
    | .pPort => some (.pPort, d, { s with pport := ps, turn := Config.arbiterPick s.free, free := s.free + 1 })

/-- The command decoder on a port: the bytes must spell an operation the port admits (R87, R88). -/
def decodeOn (c : Config) (p : Port) (bytes : List Byte) : Except Invalid Instr :=
  match decode c bytes with
  | .error why => .error why
  | .ok i => if i.port = p then .ok i else .error .wrongPort

/-- "The command decoder answers `invalid` and the block's state is unchanged" (R87). -/
def answerInvalid (p : Port) (why : Invalid) (s : State) : Outcome := .next (s.respond p (.invalid why))

end Sys2Proof.Machine
end

