-- ==== Sys2Proof/Machine/Operands.lean ====
section
/-! DEFINITION. The quantities operations compute from their operands and from the current frame: fields with a default,
axis values, the button mask, colours, decimal digits (spec/20_memory.md R53, spec/42_control_frame.md, spec/43_telemetry.md). -/

namespace Sys2Proof.Machine

/-! ### Fields of the current frame (R142) -/

/-- FLEN (R22). -/
def State.flen (s : State) : Nat := s.frame.length

/-- `field(k, d)`: `x[k]` when `k < FLEN`, else the default (R142). -/
def State.field (s : State) (k : Nat) (d : Byte) : Byte := s.frame.getD k d

/-- `clamp(v, lo, hi)` (R10). -/
def clamp (v lo hi : Nat) : Nat := if v < lo then lo else if hi < v then hi else v

/-- A written value is accepted when it has a tag byte and the tag is 1 (R72). -/
def accepted (raw : List Byte) : Bool :=
  match raw with
  | [] => false
  | tag :: _ => tag == TAG_OK

/-- The frame a written value leaves (R141): its first 20 bytes when accepted, else the neutral frame. -/
def frameOf (raw : List Byte) : List Byte := if accepted raw then raw.take FRAME_LEN else NEUTRAL_FRAME

/-- The raw byte of an axis (R143). -/
def State.rawAxis (s : State) (i : Byte) : Byte :=
  if AXIS_COUNT ≤ i.toNat then AXIS_CENTER else s.field (1 + i.toNat) AXIS_CENTER

/-- The numerator over 255 of the axis value of a raw byte (R144, R145): exactly 0 at the centre, else `2 r - 255`, since
`r / (n / d) - 1 = (d r - n) / n` for AXIS_DIVISOR `n / d`. -/
def axisNum (r : Byte) : Int :=
  if r = AXIS_CENTER then 0 else (AXIS_DIVISOR.2 : Int) * (r.toNat : Int) - (AXIS_DIVISOR.1 : Int)

/-- `mask = (byte6 << 8) | byte5` with missing bytes read as 0 (R73, R147). -/
def State.buttonMask (s : State) : BitVec 16 := s.field 6 0 ++ s.field 5 0

/-- Bit `n` of the mask, false outside its 16 bits (R147). -/
def State.button (s : State) (n : Byte) : Bool :=
  if BUTTON_COUNT ≤ n.toNat then false else s.buttonMask.getLsbD n.toNat

/-- The servo angle (R148). -/
def State.servo (s : State) : Byte :=
  if s.flen ≤ 7 then SERVO_DEFAULT
  else BitVec.ofNat 8 (clamp (s.field 7 0).toNat SERVO_MIN SERVO_MAX)

/-! ### Colours (R75, R162) -/

/-- Strip one "0x". -/
def stripHexMark : List Byte → List Byte
  | b0 :: b1 :: t => if b0 = 0x30 ∧ b1 = 0x78 then t else b0 :: b1 :: t
  | t => t

/-- The value of a hexadecimal digit of either case. -/
def hexDigit (b : Byte) : Option Nat :=
  if 0x30 ≤ b.toNat ∧ b.toNat ≤ 0x39 then some (b.toNat - 0x30)
  else if 0x41 ≤ b.toNat ∧ b.toNat ≤ 0x46 then some (b.toNat - 0x41 + 10)
  else if 0x61 ≤ b.toNat ∧ b.toNat ≤ 0x66 then some (b.toNat - 0x61 + 10)
  else none

/-- The digits after those that gave `v`; `none` at a byte that is no digit. -/
def hexValue (v : Nat) : List Byte → Option Nat
  | [] => some v
  | b :: t =>
    match hexDigit b with
    | none => none
    | some d => hexValue (16 * v + d) t

/-- `parse_color(s)`: 24 bits, 0 on a parse failure (R162; for the grey zone see log entry 19). -/
def parseColor (s : List Byte) : BitVec 24 :=
  match stripHexMark s with
  | [] => 0
  | t => match hexValue 0 t with
    | none => 0
    | some v => BitVec.ofNat 24 v

/-- The colour's bytes, most significant first (R75). -/
def colorBytes (c : BitVec 24) : List Byte := [c.extractLsb' 16 8, c.extractLsb' 8 8, c.extractLsb' 0 8]

/-- The label field: up to 8 bytes of the label, then zeros (R74, R161). -/
def labelBytes (label : List Byte) : List Byte := (List.range LABEL_LEN).map fun k => label.getD k 0

/-- Every label byte is below 0x80 (R161, R193; log entry 23). -/
def asciiLabel (label : List Byte) : Bool := label.all fun b => decide (b.toNat < 0x80)

/-! ### Voltages (R166, R167) -/

/-- The integer nearest to `n / d`, and the even one of two at a tie (R166). -/
def roundHalfEven (n d : Nat) : Nat :=
  if 2 * (n % d) < d then n / d
  else if d < 2 * (n % d) then n / d + 1
  else if n / d % 2 = 0 then n / d else n / d + 1

/-- An ASCII digit. -/
def digitByte (k : Nat) : Byte := BitVec.ofNat 8 (0x30 + k)

/-- Decimal digits without a leading zero, for a number below `10 ^ fuel`. -/
def decimalAux : Nat → Nat → List Byte
  | 0, _ => []
  | fuel + 1, n => if n < 10 then [digitByte n] else decimalAux fuel (n / 10) ++ [digitByte (n % 10)]

/-- `decimal(n)` (R166); `n + 1` digits are more than enough. -/
def decimal (n : Nat) : List Byte := decimalAux (n + 1) n

/-- `fmt2(v)` for the non-negative rational `v = num / den`: two digits after the point (R166). -/
def fmt2 (num den : Nat) : List Byte :=
  let c := roundHalfEven (100 * num) den
  decimal (c / 100) ++ [0x2E, digitByte (c % 100 / 10), digitByte (c % 10)]

/-- `v ≥ t` for the rationals `v = num / den` and `t`, compared exactly (R167, R168). -/
def atLeast (num den : Nat) (t : Nat × Nat) : Bool := decide (t.1 * den ≤ num * t.2)

/-- An upper-case hexadecimal digit. -/
def hexByte (d : Nat) : Byte := if d < 10 then digitByte d else BitVec.ofNat 8 (0x41 + (d - 10))

/-- The string of a colour handed to the parser, six digits and no mark: "00FF00" for COLOR_GREEN (R167, C3 of
spec/90_conflicts.md). -/
def colorString (c : BitVec 24) : List Byte := [5, 4, 3, 2, 1, 0].map fun k => hexByte (c.toNat / 16 ^ k % 16)

/-- The colour of a battery report: green, yellow or red by the exact voltage (R8, R167). -/
def batteryColor (num den : Nat) : BitVec 24 :=
  if atLeast num den V_GREEN then COLOR_GREEN else if atLeast num den V_YELLOW then COLOR_YELLOW else COLOR_RED

/-- The label of a battery report: the voltage, a space and the letter V (R167). -/
def batteryLabel (num den : Nat) : List Byte := fmt2 num den ++ [0x20, 0x56]

end Sys2Proof.Machine
end

