-- ==== Sys2Proof/Machine/Flags.lean ====
section
/-! DEFINITION. The booleans the block derives from its state. It "has no condition codes and no flags register"
(spec/10_state.md R29): none of these is held. -/

namespace Sys2Proof.Machine

/-- `CONNECTED = (exists h. CONN[h] = 1)` (R25, R126). -/
def State.connected (s : State) : Bool := !s.conn.isEmpty

/-- The rate limiter's test (R164): `LS_VALID = 1 and now < LAST_SEND + 500`, over the integers, without wrap. -/
def State.suppressed (s : State) (now : Nat) : Bool :=
  s.lsValid && decide (now < s.lastSend + TLM_MIN_INTERVAL_MS)

/-- The lifecycle position of R185: no register, read off the state. -/
inductive Position where
  | unconstructed
  | idleAdvertising
  | connected
  deriving DecidableEq, Repr

/-- The condition column of R185's table. -/
def State.position (s : State) : Position :=
  if s.initd then (if s.connected then .connected else .idleAdvertising) else .unconstructed

/-- `bad_configuration` is absent: the six type codes are pairwise distinct (R9, R193). -/
def typeCodesDistinct (c : Config) : Bool := decide c.typeCodes.Nodup

end Sys2Proof.Machine
end

