-- ==== Sys2Proof/Machine/Advertising.lean ====
section
/-! DEFINITION. The advertising-payload codec operations (spec/40_advertising_codec.md): pure functions of their operands. -/

namespace Sys2Proof.Machine

/-! ### Encoding (R77, R101) -/

/-- One TLV record: the length byte counts the type byte and the value bytes (R77). -/
def record (code : Byte) (value : List Byte) : List Byte := BitVec.ofNat 8 (1 + value.length) :: code :: value

/-- The record of a present name (R101); a value of more than 254 bytes cannot be encoded. -/
def nameRecord (c : Config) : Option (List Byte) → Except Refusal (List Byte)
  | none => .ok []
  | some name => if 254 < name.length then .error .valueTooLong else .ok (record c.tName name)

/-- The type code of a UUID by its width (R101). -/
def uuidCode (c : Config) (w : Nat) : Option Byte :=
  if w = 2 then some c.tUuid16 else if w = 4 then some c.tUuid32 else if w = 16 then some c.tUuid128 else none

/-- One record per UUID, in the order given (R101). -/
def uuidRecords (c : Config) : List (List Byte) → Except Refusal (List Byte)
  | [] => .ok []
  | u :: us =>
    match uuidCode c u.length with
    | none => .error .badUuidWidth
    | some code =>
      match uuidRecords c us with
      | .error r => .error r
      | .ok out => .ok (record code u ++ out)

/-- The record of a present appearance, least significant byte first (R101). -/
def appearanceRecord (c : Config) : Option (BitVec 16) → List Byte
  | none => []
  | some v => record c.tAppearance (le16 v)

/-- The payload of R101 in "the fixed order flags, name, services, appearance". -/
def encodePayload (c : Config) (flags : Byte) (name : Option (List Byte)) (uuids : List (List Byte))
    (appearance : Option (BitVec 16)) : Except Refusal (List Byte) :=
  if typeCodesDistinct c then
    match nameRecord c name with
    | .error r => .error r
    | .ok nameOut =>
      match uuidRecords c uuids with
      | .error r => .error r
      | .ok uuidOut => .ok (record c.tFlags [flags] ++ nameOut ++ uuidOut ++ appearanceRecord c appearance)
  else .error .badConfiguration

/-! ### Decoding (R103, R105, R106) -/

/-- The scan of R103 over what is left of a payload, stopping at a length byte of 0 and at a record that runs past the
end; each round takes at least two bytes, so the payload's length is fuel enough. -/
def scanRecords (code : Byte) : Nat → List Byte → List (List Byte)
  | 0, _ => []
  | _ + 1, [] => []
  | fuel + 1, len :: rest =>
    if len = 0 then []
    else if rest.length < len.toNat then []
    else
      let later := scanRecords code fuel (rest.drop len.toNat)
      if rest.head? = some code then (rest.take len.toNat).drop 1 :: later else later

/-- `ADV.DECF(payload, type)`: the value of every record of one type, in payload order (R103). -/
def decodeField (payload : List Byte) (code : Byte) : List (List Byte) := scanRecords code payload.length payload

/-- The first name record's value, or the empty sequence (R105). -/
def decodeName (c : Config) (payload : List Byte) : List Byte := (decodeField payload c.tName).headD []

/-- The first `n` whole pieces of `w` bytes (R106). -/
def pieces (w : Nat) : Nat → List Byte → List (List Byte)
  | 0, _ => []
  | n + 1, v => v.take w :: pieces w n (v.drop w)

/-- The UUIDs of one width, in payload order; bytes after a record's last whole UUID are dropped (R106). -/
def decodeUuids (payload : List Byte) (code : Byte) (w : Nat) : List (List Byte) :=
  (decodeField payload code).flatMap fun v => pieces w (v.length / w) v

/-- All 16-bit UUIDs, then all 32-bit, then all 128-bit (R106). -/
def decodeServices (c : Config) (payload : List Byte) : List (List Byte) :=
  decodeUuids payload c.tUuid16 2 ++ decodeUuids payload c.tUuid32 4 ++ decodeUuids payload c.tUuid128 16

/-- Complete a decoding operation, or refuse it under a bad configuration (R193). -/
def completeDecoding (r : Result) (s : State) : Outcome :=
  if typeCodesDistinct s.cfg then complete .pPort r s else .refused .badConfiguration

/-- ADV.ENC (R101); a result longer than 255 bytes cannot be returned on the transport and is refused (D21). -/
def execAdvEnc (flags : Byte) (name : Option (List Byte)) (uuids : List (List Byte)) (appearance : Option (BitVec 16))
    (s : State) : Outcome :=
  match encodePayload s.cfg flags name uuids appearance with
  | .error r => .refused r
  | .ok p => if 255 < p.length then .refused .resultTooLong else complete .pPort (.payload p) s

/-- ADV.DECF (R103). -/
def execAdvDecf (code : Byte) (payload : List Byte) (s : State) : Outcome :=
  completeDecoding (.values (decodeField payload code)) s

/-- ADV.DECN (R105). -/
def execAdvDecn (payload : List Byte) (s : State) : Outcome := completeDecoding (.name (decodeName s.cfg payload)) s

/-- ADV.DECS (R106). -/
def execAdvDecs (payload : List Byte) (s : State) : Outcome :=
  completeDecoding (.uuids (decodeServices s.cfg payload)) s

end Sys2Proof.Machine
end

