-- ==== Sys2Proof/Machine/ControlFrame.lean ====
section
/-! DEFINITION. The control-frame operations (spec/42_control_frame.md): the writer and the four accessors. -/

namespace Sys2Proof.Machine

/-- The axis value of R145 on the P-port. -/
def reportAxis (i : Byte) (s : State) : Outcome := complete .pPort (.axis (axisNum (s.rawAxis i))) s

/-- The button of R147 on the P-port. -/
def reportButton (n : Byte) (s : State) : Outcome := complete .pPort (.bool (s.button n)) s

/-- The servo angle of R148 on the P-port. -/
def reportServo (s : State) : Outcome := complete .pPort (.angle s.servo) s

/-- CF.WRITE (R141), of any length its format carries (log entry 15). -/
def execCfWrite (raw : List Byte) (s : State) : Outcome := complete .ePort .done (s.setFrame (frameOf raw))

/-- CF.RAWAXIS (R143). -/
def execCfRawaxis (i : Byte) (s : State) : Outcome := complete .pPort (.raw (s.rawAxis i)) s

/-- CF.AXIS (R145). -/
def execCfAxis (i : Byte) (s : State) : Outcome := reportAxis i s

/-- CF.BUTTON (R147). -/
def execCfButton (n : Byte) (s : State) : Outcome := reportButton n s

/-- CF.SERVO (R148). -/
def execCfServo (s : State) : Outcome := reportServo s

end Sys2Proof.Machine
end

