-- ==== Sys2Proof/Machine/LinkServer.lean ====
section
/-! DEFINITION. The link-server operations (spec/41_link_server.md): connect, disconnect, write, send, is-connected. -/

namespace Sys2Proof.Machine

/-- The connection report of R126 on the P-port. -/
def reportConnected (s : State) : Outcome := complete .pPort (.bool s.connected) s

/-- EV.CONN (R121): `CONN[handle] <- 1`. -/
def execEvConn (handle : Nat) (s : State) : Outcome :=
  complete .ePort .done (s.setConn (connInsert handle s.conn))

/-- EV.DISC (R122): `CONN[handle] <- 0` and, unconditionally, ADVERTISE with the content of ADVP. -/
def execEvDisc (handle : Nat) (s : State) : Outcome :=
  complete .ePort .done ((s.setConn (connErase handle s.conn)).emits [.advertise s.advp])

/-- EV.WRITE (R123): a write to RX is CF.WRITE's replacement of the frame; any other is ignored. The handle is not
consulted. -/
def execEvWrite (_handle : Nat) (char : CharSel) (value : List Byte) (s : State) : Outcome :=
  match char with
  | .rx => complete .ePort .done (s.setFrame (frameOf value))
  | .tx => complete .ePort .done s
  | .other _ => complete .ePort .done s

/-- LNK.SEND (R124). -/
def execLnkSend (bytes : List Byte) (s : State) : Outcome := complete .pPort .done (s.notifyAll bytes)

/-- LNK.ISCONN (R126). -/
def execLnkIsconn (s : State) : Outcome := reportConnected s

end Sys2Proof.Machine
end

