-- ==== Sys2Proof/Machine/Telemetry.lean ====
section
/-! DEFINITION. The telemetry operations (spec/43_telemetry.md): the packer, the rate-limited send, the battery report. -/

namespace Sys2Proof.Machine

/-- The 11-byte telemetry frame (R161). -/
def buildFrame (label color : List Byte) : List Byte := labelBytes label ++ colorBytes (parseColor color)

/-- TM.TRYSEND's atomic step once its operands are admitted (R164): suppressed, or built, notified and recorded. -/
def trySend (label color : List Byte) (now : Nat) (s : State) : Outcome :=
  if s.suppressed now then complete .pPort (.bool false) s
  else complete .pPort (.bool true) ((s.notifyAll (buildFrame label color)).recordSend now)

/-- The rate-limited send of R164, with TM.BUILD's refusal "decided on the operands before the rate test". -/
def sendTelemetry (label color : List Byte) (now : Nat) (s : State) : Outcome :=
  if asciiLabel label then trySend label color now s else .refused .nonAsciiLabel

/-- The battery report of R167 for `v = mv / 1000`. -/
def reportBattery (mv : Millivolts) (now : Nat) (s : State) : Outcome :=
  sendTelemetry (batteryLabel mv.toNat 1000) (colorString (batteryColor mv.toNat 1000)) now s

/-- TM.BUILD (R161). -/
def execTmBuild (label color : List Byte) (s : State) : Outcome :=
  if asciiLabel label then complete .pPort (.frame (buildFrame label color)) s else .refused .nonAsciiLabel

/-- TM.TRYSEND (R164). -/
def execTmTrysend (label color : List Byte) (now : Nat) (s : State) : Outcome := sendTelemetry label color now s

/-- TM.BATT (R167). -/
def execTmBatt (mv : Millivolts) (now : Nat) (s : State) : Outcome := reportBattery mv now s

end Sys2Proof.Machine
end

