-- ==== Sys2Proof/Machine/LinkAgent.lean ====
section
/-! DEFINITION. The link-agent operations (spec/44_link_agent.md): the construction sequence and the public contract. -/

namespace Sys2Proof.Machine

/-- The GATT_REGISTER event of R181: TX with properties read and notify, RX with write and write-without-response. -/
def gattRegistration (c : Config) : OutEvent :=
  .gattRegister c.svcUuid c.txUuid [.read, .notify] c.rxUuid [.write, .writeWithoutResponse]

/-- The payload AG.INIT builds (R181): flags, the name, the service UUID, no appearance. -/
def constructionPayload (c : Config) (name : List Byte) : Except Refusal (List Byte) :=
  encodePayload c c.advFlags (some name) [c.svcUuid.toList] none

/-- The radio requests of R181 in order, ending at the first that fails, and the load of ADVP on success. -/
def construct (rstat : RStat) (p : List Byte) (s : State) : Outcome :=
  let activated := s.emits [.radioActivate]
  if rstat = .activationFailed then raiseInitError .activate activated
  else
    let registered := activated.emits [.irqRegister, gattRegistration s.cfg]
    if rstat = .registrationFailed then raiseInitError .register registered
    else
      let advertised := registered.emits [.advertise p]
      if rstat = .advertiseFailed then raiseInitError .advertise advertised
      else complete .pPort .done (advertised.loadPayload p)

/-- AG.INIT (R181). Every refusal comes before the first radio request. -/
def execAgInit (rstat : RStat) (name : List Byte) (s : State) : Outcome :=
  if s.initd then .refused .alreadyConstructed
  else
    match constructionPayload s.cfg name with
    | .error r => .refused r
    | .ok p => if ADV_CAP < p.length then .refused .payloadTooLong else construct rstat p s

/-- AG.ISCONN is exactly LNK.ISCONN (R183). -/
def execAgIsconn (s : State) : Outcome := reportConnected s

/-- AG.GETAXIS is exactly CF.AXIS (R183). -/
def execAgGetaxis (i : Byte) (s : State) : Outcome := reportAxis i s

/-- AG.GETBTN is exactly CF.BUTTON (R183). -/
def execAgGetbtn (n : Byte) (s : State) : Outcome := reportButton n s

/-- AG.GETSERVO is exactly CF.SERVO (R183). -/
def execAgGetservo (s : State) : Outcome := reportServo s

/-- AG.BATT is TM.BATT with the time supplied by the agent (R184, log entry 18). -/
def execAgBatt (mv : Millivolts) (now : Nat) (s : State) : Outcome := reportBattery mv now s

end Sys2Proof.Machine
end

