-- ==== Sys2Proof/Machine/Transport.lean ====
section
/-! DEFINITION. The bytes of responses (spec/30_encoding.md R84, R92) and of output events (R86) on the command
transport. The state holds answers and events by name; these say how they are carried. -/

namespace Sys2Proof.Machine

/-- Status OK (R92). -/
def STATUS_OK : Byte := 0x00

/-- Status E_INIT (R92). -/
def E_INIT : Byte := 0x01

/-- A list of byte sequences, each under its length byte, after a count byte (R84). -/
def countedBytes (vs : List (List Byte)) : List Byte := lenByte vs :: vs.flatMap lenBytes

/-- An axis value on the response port (R84): a two's-complement numerator, two bytes, at the default AXIS_REPR. -/
def axisBytes (repr : AxisRepr) (num : Int) : List Byte :=
  match repr with
  | .numeratorOver255 => le16 (BitVec.ofInt 16 num)
  | .other code => Config.axisRendering code num

/-- The result bytes after status OK (R84). -/
def Result.bytes (repr : AxisRepr) : Result → List Byte
  | .done => []
  | .bool b => [if b then 0x01 else 0x00]
  | .raw b => [b]
  | .angle deg => [deg]
  | .axis num => axisBytes repr num
  | .frame bytes => bytes
  | .payload bytes => lenBytes bytes
  | .values vs => countedBytes vs
  | .name bytes => lenBytes bytes
  | .uuids us => countedBytes us

/-- The response bytes (R84, R92); the verdict `invalid` has no response defined (R87). -/
def Answer.bytes (repr : AxisRepr) : Answer → Option (List Byte)
  | .ok r => some (STATUS_OK :: r.bytes repr)
  | .initError _ => some [E_INIT]
  | .invalid _ => none

/-- The standard GATT property bits, from general knowledge (R86, G6; log entry 21). -/
def GattProp.bit : GattProp → Byte
  | .read => 0x02
  | .writeWithoutResponse => 0x04
  | .write => 0x08
  | .notify => 0x10

/-- The property byte of a set of properties. -/
def propByte (props : List GattProp) : Byte := props.foldl (fun acc p => acc ||| p.bit) 0

/-- The transport bytes of an output event (R86); a handle takes `ceil(HANDLE_W / 8)` bytes (R81). -/
def OutEvent.bytes (handleW : Nat) : OutEvent → List Byte
  | .radioActivate => [0x80]
  | .irqRegister => [0x81]
  | .gattRegister svc tx txProps rx rxProps =>
      0x82 :: svc.toList ++ tx.toList ++ [propByte txProps] ++ rx.toList ++ [propByte rxProps]
  | .advertise payload => 0x83 :: lenBytes payload
  | .notify handle bytes => 0x84 :: leField handleW handle ++ lenBytes bytes

end Sys2Proof.Machine
end

