-- ==== Sys2Proof/Machine/Dispatch.lean ====
section
/-! DEFINITION. One arm per operation of spec/opcode_table.json, each one call of the operation's meaning. -/

namespace Sys2Proof.Machine

def exec (i : Instr) (s : State) : Host.Outcome State Fault Refusal :=
  match i with
  | .evConn handle => Sys2Proof.Machine.execEvConn handle s
  | .evDisc handle => Sys2Proof.Machine.execEvDisc handle s
  | .evWrite handle char value => Sys2Proof.Machine.execEvWrite handle char value s
  | .cfWrite raw => Sys2Proof.Machine.execCfWrite raw s
  | .lnkIsconn => Sys2Proof.Machine.execLnkIsconn s
  | .lnkSend bytes => Sys2Proof.Machine.execLnkSend bytes s
  | .cfRawaxis idx => Sys2Proof.Machine.execCfRawaxis idx s
  | .cfAxis idx => Sys2Proof.Machine.execCfAxis idx s
  | .cfButton n => Sys2Proof.Machine.execCfButton n s
  | .cfServo => Sys2Proof.Machine.execCfServo s
  | .tmBuild label color => Sys2Proof.Machine.execTmBuild label color s
  | .tmTrysend label color now => Sys2Proof.Machine.execTmTrysend label color now s
  | .tmBatt mv now => Sys2Proof.Machine.execTmBatt mv now s
  | .advEnc flags name uuids appearance => Sys2Proof.Machine.execAdvEnc flags name uuids appearance s
  | .advDecf code payload => Sys2Proof.Machine.execAdvDecf code payload s
  | .advDecn payload => Sys2Proof.Machine.execAdvDecn payload s
  | .advDecs payload => Sys2Proof.Machine.execAdvDecs payload s
  | .agInit rstat name => Sys2Proof.Machine.execAgInit rstat name s
  | .agIsconn => Sys2Proof.Machine.execAgIsconn s
  | .agGetaxis idx => Sys2Proof.Machine.execAgGetaxis idx s
  | .agGetbtn n => Sys2Proof.Machine.execAgGetbtn n s
  | .agGetservo => Sys2Proof.Machine.execAgGetservo s
  | .agBatt mv now => Sys2Proof.Machine.execAgBatt mv now s

end Sys2Proof.Machine
end

