-- ==== Sys2Proof/Machine/Step.lean ====
section
/-! DEFINITION. One step of the block: one operation, presented on a port and performed whole (spec/20_memory.md R57, R58). -/

namespace Sys2Proof.Machine

/-- One step. The block takes the command at the head of the port it serves next; bytes that spell no operation of that
port are answered `invalid`; an operation is performed. With no command waiting the block is idle (log entry 2). -/
def step (s : State) : Host.Outcome State Fault Refusal :=
  match select s with
  | none => .next s
  | some (p, command, taken) =>
    match decodeOn taken.cfg p command with
    | .error why => answerInvalid p why taken
    | .ok i => exec i taken

/-- The state with the command of a table word put where the next step takes its operation: at the head of the port that
admits it, and that port's turn (log entry 20). -/
def State.withFetchWord (s : State) (nbits w : Nat) : State :=
  match decodeTableWord nbits w with
  | some i =>
    match i.port with
    | .ePort => { s with eport := tableCommand s.cfg nbits w :: s.eport, turn := .ePort }
    | .pPort => { s with pport := tableCommand s.cfg nbits w :: s.pport, turn := .pPort }
  | none => { s with eport := tableCommand s.cfg nbits w :: s.eport, turn := .ePort }

end Sys2Proof.Machine
end

