-- ==== Sys2Proof/Safety.lean ====
section
/-! DEFINITION. What counts as a legal state of the block, in the terms claims use (spec/10_state.md R22 to R28). -/

namespace Sys2Proof.Machine

/-- FLEN is at most 20, and "`x[0] = 1` whenever `FLEN >= 1`" (R22, R23). -/
def frameLegal (frame : List Byte) : Bool :=
  decide (frame.length ≤ FRAME_LEN) && (frame.isEmpty || frame.head? == some TAG_OK)

/-- ADVP_LEN is 0 before construction; after it, ADVP holds a payload of at least the flags record, an empty name's
record and the UUID record, within ADV_CAP (R27, R181, R182). -/
def advpLegal (initd : Bool) (advp : List Byte) : Bool :=
  if initd then decide (23 ≤ advp.length) && decide (advp.length ≤ ADV_CAP) else advp.isEmpty

/-- CONN holds handles of HANDLE_W bits (R24), in canonical form. -/
def connLegal (handleW : Nat) (conn : List Nat) : Bool := connCanonical conn && conn.all (fitsWidth handleW)

/-- The invariant of the block: a legal frame, a legal connection set, a LAST_SEND of TS_W bits (R26) and a legal payload
register. -/
def State.legal (s : State) : Bool :=
  frameLegal s.frame && connLegal s.cfg.handleW s.conn && fitsWidth s.cfg.tsW s.lastSend && advpLegal s.initd s.advp

/-- One step leads from the first state to the second. -/
def Steps (s t : State) : Prop := step s = .next t

/-- Some number of steps leads from the first state to the second. -/
def Runs : State → State → Prop := Relation.ReflTransGen Steps

end Sys2Proof.Machine
end

