-- ==== Sys2Proof/Certificates/Slice0/Obligations.lean ====
section
/-! DEFINITION. The statements for the provers, from the numbered rules of spec/, and the words they are written in.
"Answered" below means: nothing of the state changed but that an answer was given. -/

namespace Sys2Proof.Claims

open Sys2Proof.Machine

/-! ### The words of the statements -/

/-- The state with one more answer `ok(r)` on a port, everything else unchanged. -/
def answered (s : State) (port : Port) (r : Result) : State :=
  { s with answers := s.answers ++ [(port, .ok r)] }

/-- Byte `k` of the current frame, or the default when the frame is too short to hold it (R142). -/
def fieldOr (s : State) (k : Nat) (d : Byte) : Byte := if h : k < s.frame.length then s.frame[k] else d

/-- The raw byte R143 gives axis `i`. -/
def rawAxisOf (s : State) (i : Byte) : Byte := if i.toNat ≤ 3 then fieldOr s (1 + i.toNat) 127 else 127

/-- The block takes command `c` on port `port`, leaving `taken`: the other port has nothing waiting, or it is this port's
turn, and then whose turn comes next is a free value. -/
def Serves (s : State) (port : Port) (c : List Byte) (taken : State) : Prop :=
  match port with
  | .ePort => ∃ es, s.eport = c :: es ∧
      ((s.pport = [] ∧ taken = { s with eport := es }) ∨
       (s.pport ≠ [] ∧ s.turn = .ePort ∧
        taken = { s with eport := es, turn := Config.arbiterPick s.free, free := s.free + 1 }))
  | .pPort => ∃ ps, s.pport = c :: ps ∧
      ((s.eport = [] ∧ taken = { s with pport := ps }) ∨
       (s.eport ≠ [] ∧ s.turn = .pPort ∧
        taken = { s with pport := ps, turn := Config.arbiterPick s.free, free := s.free + 1 }))

/-- `b` is the hexadecimal digit of value `d`, in either case (R162). -/
def IsHexDigit (b : Byte) (d : Nat) : Prop :=
  (d < 10 ∧ b.toNat = 0x30 + d) ∨ (10 ≤ d ∧ d < 16 ∧ (b.toNat = 0x41 + (d - 10) ∨ b.toNat = 0x61 + (d - 10)))

/-- `s` is one or more hexadecimal digits of values `ds`, with or without one "0x" before them (R162). -/
def IsHexNumber (s : List Byte) (ds : List Nat) : Prop :=
  ∃ t, (s = t ∨ s = 0x30 :: 0x78 :: t) ∧ t ≠ [] ∧ List.Forall₂ IsHexDigit t ds

/-- The colour of a string (R162): the number modulo 2^24, and 0 for a string that is no number. -/
def IsColour (s : List Byte) (c : Nat) : Prop :=
  (∃ ds, IsHexNumber s ds ∧ c = ds.foldl (fun v d => 16 * v + d) 0 % 2 ^ 24) ∨ ((¬ ∃ ds, IsHexNumber s ds) ∧ c = 0)

/-- The number whose bytes, least significant first, are given (R81). -/
def leValue (bs : List Byte) : Nat := bs.foldr (fun b v => b.toNat + 256 * v) 0

/-- A byte sequence behind its length byte (R83). -/
def counted (bs : List Byte) : List Byte := BitVec.ofNat 8 bs.length :: bs

/-- The ASCII bytes of a string. -/
def ascii (str : String) : List Byte := str.toList.map fun ch => BitVec.ofNat 8 ch.toNat

/-- The label of a battery report (R166, R167): `c` hundredths of a volt, the integer nearest to `mv / 10` and the even
one at a tie, as a decimal with two digits after the point, a space and the letter V. -/
def IsBatteryLabel (mv : Millivolts) (label : List Byte) : Prop :=
  ∃ c : Nat, 10 * c ≤ mv.toNat + 5 ∧ mv.toNat ≤ 10 * c + 5 ∧ (mv.toNat % 10 = 5 → c % 2 = 0) ∧
    label = ascii (toString (c / 100)) ++ ascii "." ++ ascii (toString (c / 10 % 10)) ++ ascii (toString (c % 10)) ++
      ascii " V"

/-- The colour string of a battery report by the exact voltage, `volts = mv / 1000` (R167). -/
def batteryColour (mv : Millivolts) : List Byte :=
  if (38 / 5 : ℚ) ≤ (mv.toNat : ℚ) / 1000 then ascii "00FF00"
  else if (7 : ℚ) ≤ (mv.toNat : ℚ) / 1000 then ascii "FFFF00"
  else ascii "FF0000"

/-- The operation is a telemetry send at time `now`. -/
def SendsAt (i : Instr) (now : Nat) : Prop :=
  (∃ label color, i = .tmTrysend label color now) ∨ (∃ mv, i = .tmBatt mv now) ∨ (∃ mv, i = .agBatt mv now)

/-- From `s` the operation completes in `t` and reports that a send occurred. -/
def Sent (i : Instr) (s t : State) : Prop :=
  exec i s = .next t ∧ t.answers = s.answers ++ [(.pPort, .ok (.bool true))]

/-- One TLV record (R77): the length byte, the type byte, the value. -/
def tlv (code : Byte) (value : List Byte) : List Byte := BitVec.ofNat 8 (value.length + 1) :: code :: value

/-- The bytes of a list of records (type, value), one after the other. -/
def tlvs (records : List (Byte × List Byte)) : List Byte := (records.map fun r => tlv r.1 r.2).flatten

/-- The scan of R103 stops here: the end, a length byte of 0, or a record that runs past the end. -/
def StopsScan (rest : List Byte) : Prop :=
  match rest with
  | [] => True
  | len :: more => len = 0 ∨ more.length < len.toNat

/-- The type code R101 gives a UUID of width `w`. -/
def codeOfWidth (c : Config) (w : Nat) : Byte :=
  if w = 2 then c.tUuid16 else if w = 4 then c.tUuid32 else c.tUuid128

/-- The payload of R101. -/
def payloadOf (c : Config) (flags : Byte) (name : Option (List Byte)) (uuids : List (List Byte))
    (appearance : Option (BitVec 16)) : List Byte :=
  [2, c.tFlags, flags] ++
  (match name with | none => [] | some n => tlv c.tName n) ++
  (uuids.map fun u => tlv (codeOfWidth c u.length) u).flatten ++
  (match appearance with | none => [] | some v => [3, c.tAppearance, v.extractLsb' 0 8, v.extractLsb' 8 8])

/-- The size of the payload (R102). -/
def payloadSize (name : Option (List Byte)) (uuids : List (List Byte)) (appearance : Option (BitVec 16)) : Nat :=
  3 + (match name with | none => 0 | some n => 2 + n.length) + (uuids.map fun u => 2 + u.length).sum +
    (match appearance with | none => 0 | some _ => 4)

/-- A UUID width ADV.ENC takes. -/
def WidthOk (u : List Byte) : Prop := u.length = 2 ∨ u.length = 4 ∨ u.length = 16

/-- The uses outside the contract (R193), `negative_volts` apart, which VOLTS_ENC cannot express. -/
def OutsideContract (i : Instr) (s : State) : Prop :=
  match i with
  | .agInit _ name => s.initd = true ∨ ¬ s.cfg.typeCodes.Nodup ∨ 31 < 23 + name.length
  | .advEnc _ name uuids appearance =>
      ¬ s.cfg.typeCodes.Nodup ∨ (∃ n, name = some n ∧ 254 < n.length) ∨ (∃ u ∈ uuids, ¬ WidthOk u) ∨
        255 < payloadSize name uuids appearance
  | .advDecf _ _ => ¬ s.cfg.typeCodes.Nodup
  | .advDecn _ => ¬ s.cfg.typeCodes.Nodup
  | .advDecs _ => ¬ s.cfg.typeCodes.Nodup
  | .tmBuild label _ => ∃ b ∈ label, 0x80 ≤ b.toNat
  | .tmTrysend label _ _ => ∃ b ∈ label, 0x80 ≤ b.toNat
  | .evConn _ | .evDisc _ | .evWrite _ _ _ | .cfWrite _ | .lnkIsconn | .lnkSend _ | .cfRawaxis _ | .cfAxis _
  | .cfButton _ | .cfServo | .tmBatt _ _ | .agIsconn | .agGetaxis _ | .agGetbtn _ | .agGetservo | .agBatt _ _ => False

/-- A value is accepted when its first byte exists and is 1 (R72). -/
def Accepted (raw : List Byte) : Prop := ∃ tail, raw = 1 :: tail

/-- The canonical neutral frame, as R8 writes it. -/
def neutral : List Byte := [1, 127, 127, 127, 127, 0, 0, 0, 0, 0, 0, 0, 0, 0, 0, 0, 0, 0, 0, 0]

/-- The frame R141 leaves after a written value. -/
def FrameAfter (raw frame : List Byte) : Prop :=
  (Accepted raw → frame = raw.take 20) ∧ (¬ Accepted raw → frame = neutral)

/-- The reserved operation bytes of R87, range by range. -/
def reservedByte (op : Byte) : Prop :=
  op.toNat = 0 ∨ (0x05 ≤ op.toNat ∧ op.toNat ≤ 0x0F) ∨ (0x12 ≤ op.toNat ∧ op.toNat ≤ 0x1F) ∨
    (0x24 ≤ op.toNat ∧ op.toNat ≤ 0x2F) ∨ (0x33 ≤ op.toNat ∧ op.toNat ≤ 0x3F) ∨
    (0x44 ≤ op.toNat ∧ op.toNat ≤ 0x4F) ∨ 0x56 ≤ op.toNat

end Sys2Proof.Claims

open Sys2Proof Sys2Proof.Machine Sys2Proof.Claims

/-! ### The command transport -/

/-- R81 to R83: every operation the transport can carry is spelled by its command, no operand bit dropped. -/
def Obligations.DecodeOfEncodeIsTheInstruction : Prop :=
  ∀ (cfg : Config) (i : Instr), i.wf cfg = true → decode cfg (encode cfg i) = .ok i

/-- R81 to R83: what the decoder accepts is well-formed and is spelled by exactly the bytes read, except that ADV.ENC with
no appearance ignores its last two bytes (R83 format A), which the encoder writes 0 (log entry 16). -/
def Obligations.EncodeOfDecodeIsTheCommand : Prop :=
  ∀ (cfg : Config) (bytes : List Byte) (i : Instr), decode cfg bytes = .ok i →
    i.wf cfg = true ∧
    (encode cfg i = bytes ∨
      ∃ flags name uuids front lo hi, i = .advEnc flags name uuids none ∧ bytes = front ++ [lo, hi] ∧
        encode cfg i = front ++ [0, 0])

/-- R87: the reserved operation bytes, and no others, spell no operation. -/
def Obligations.ReservedBytesSpellNoOperation : Prop :=
  ∀ (cfg : Config) (op : Byte) (rest : List Byte),
    decode cfg (op :: rest) = .error (.reservedOp op) ↔ reservedByte op

/-- R81, R87: a command cut short anywhere is invalid, and so (log entry 12, DEDUCED) is one with bytes after it. The
reasons' names are the model's (log entry 11, DESIGN CHOICE). -/
def Obligations.CutOrOverlongCommandsAreInvalid : Prop :=
  ∀ (cfg : Config) (i : Instr), i.wf cfg = true →
    (∀ k, 0 < k → k < (encode cfg i).length → decode cfg ((encode cfg i).take k) = .error .truncated) ∧
    (∀ b more, decode cfg (encode cfg i ++ b :: more) = .error .trailing)

/-- R87: the field values it names make a command invalid, whatever stands in the fields after them. So does a handle of
more than HANDLE_W bits or a timestamp of more than TS_W bits (log entry 1, DEDUCED). Which reason is given where several
hold (the command may also be cut short, or break a later field's rule) is the model's choice: the first in reading order
(log entry 11, DESIGN CHOICE). -/
def Obligations.ReservedFieldValuesAreInvalid : Prop :=
  ∀ cfg : Config,
    (∀ (handle rest : List Byte) (char len : Byte), handle.length = (cfg.handleW + 7) / 8 →
      leValue handle < 2 ^ cfg.handleW → cfg.rxMax < len.toNat →
      decode cfg (0x03 :: handle ++ char :: len :: rest) = .error .aboveRxMax) ∧
    (∀ (op : Byte) (handle rest : List Byte), op ∈ [(0x01 : Byte), 0x02, 0x03] →
      handle.length = (cfg.handleW + 7) / 8 → 2 ^ cfg.handleW ≤ leValue handle →
      decode cfg (op :: handle ++ rest) = .error .aboveWidth) ∧
    (∀ now rest : List Byte, now.length = (cfg.tsW + 7) / 8 → 2 ^ cfg.tsW ≤ leValue now →
      (∀ lo hi : Byte, decode cfg (0x32 :: lo :: hi :: now ++ rest) = .error .aboveWidth ∧
        decode cfg (0x55 :: lo :: hi :: now ++ rest) = .error .aboveWidth) ∧
      (∀ label color : List Byte, label.length ≤ 255 → color.length ≤ 255 →
        decode cfg (0x31 :: counted label ++ counted color ++ now ++ rest) = .error .aboveWidth)) ∧
    (∀ (present : Byte) (rest : List Byte), 4 ≤ present.toNat →
      decode cfg (0x40 :: present :: rest) = .error .reservedPresent) ∧
    (∀ (present flags nlen : Byte) (rest : List Byte), present = 0 ∨ present = 2 → nlen ≠ 0 →
      decode cfg (0x40 :: present :: flags :: nlen :: rest) = .error .nameNotPresent) ∧
    (∀ (present flags : Byte) (name : List Byte) (uuids : List (List Byte)) (ucount w : Byte) (rest : List Byte),
      present.toNat < 4 → (present.toNat % 2 = 0 → name = []) → name.length ≤ 255 →
      (∀ u ∈ uuids, WidthOk u) → uuids.length < ucount.toNat → w.toNat ≠ 2 → w.toNat ≠ 4 → w.toNat ≠ 16 →
      decode cfg (0x40 :: present :: flags :: counted name ++ ucount :: (uuids.map counted).flatten ++ w :: rest) =
        .error (.uuidWidth w)) ∧
    (∀ (rstat : Byte) (rest : List Byte), 3 < rstat.toNat →
      decode cfg (0x50 :: rstat :: rest) = .error .rstatAbove3)

/-- A sanity statement: commands of spec/95_test_vectors.md part 3, one per operand format of R83 (Z, I, H, W, B, L, S, V,
A, T, N, in that order), decode to their operations, and its reserved byte to none. -/
def Obligations.PublishedCommandsDecode : Prop :=
  decode Config.default [0x10] = .ok .lnkIsconn ∧
  decode Config.default [0x20, 0x01] = .ok (.cfRawaxis 1) ∧
  decode Config.default [0x01, 0x40, 0x00] = .ok (.evConn 0x0040) ∧
  decode Config.default [0x03, 0x40, 0x00, 0x01, 0x14, 0x01, 0x7F, 0xC8, 0x7F, 0x7F, 0x01, 0x80, 0x5A, 0x00, 0x00, 0x00,
      0x00, 0x00, 0x00, 0x00, 0x00, 0x00, 0x00, 0x00, 0x00] =
    .ok (.evWrite 0x0040 .rx [0x01, 0x7F, 0xC8, 0x7F, 0x7F, 0x01, 0x80, 0x5A, 0x00, 0x00, 0x00, 0x00, 0x00, 0x00, 0x00,
      0x00, 0x00, 0x00, 0x00, 0x00]) ∧
  decode Config.default [0x11, 0x02, 0x41, 0x42] = .ok (.lnkSend [0x41, 0x42]) ∧
  decode Config.default [0x30, 0x06, 0x37, 0x2E, 0x38, 0x32, 0x20, 0x56, 0x06, 0x30, 0x30, 0x46, 0x46, 0x30, 0x30] =
    .ok (.tmBuild [0x37, 0x2E, 0x38, 0x32, 0x20, 0x56] [0x30, 0x30, 0x46, 0x46, 0x30, 0x30]) ∧
  decode Config.default [0x31, 0x05, 0x48, 0x45, 0x4C, 0x4C, 0x4F, 0x08, 0x30, 0x78, 0x30, 0x30, 0x30, 0x30, 0x46, 0x46,
      0xF3, 0x01, 0x00, 0x00] =
    .ok (.tmTrysend [0x48, 0x45, 0x4C, 0x4C, 0x4F] [0x30, 0x78, 0x30, 0x30, 0x30, 0x30, 0x46, 0x46] 499) ∧
  decode Config.default [0x32, 0x8C, 0x1E, 0x64, 0x00, 0x00, 0x00] = .ok (.tmBatt 7820 100) ∧
  decode Config.default [0x40, 0x03, 0x06, 0x03, 0x58, 0x52, 0x50, 0x01, 0x02, 0x0F, 0x18, 0xC1, 0x03] =
    .ok (.advEnc 0x06 (some [0x58, 0x52, 0x50]) [[0x0F, 0x18]] (some 0x03C1)) ∧
  decode Config.default [0x41, 0x01, 0x1F, 0x02, 0x01, 0x06, 0x09, 0x09, 0x58, 0x52, 0x50, 0x2D, 0x42, 0x54, 0x30, 0x31,
      0x11, 0x07, 0x9E, 0xCA, 0xDC, 0x24, 0x0E, 0xE5, 0xA9, 0xE0, 0x93, 0xF3, 0xA3, 0xB5, 0x01, 0x00, 0x40, 0x6E] =
    .ok (.advDecf 0x01 [0x02, 0x01, 0x06, 0x09, 0x09, 0x58, 0x52, 0x50, 0x2D, 0x42, 0x54, 0x30, 0x31, 0x11, 0x07, 0x9E,
      0xCA, 0xDC, 0x24, 0x0E, 0xE5, 0xA9, 0xE0, 0x93, 0xF3, 0xA3, 0xB5, 0x01, 0x00, 0x40, 0x6E]) ∧
  decode Config.default [0x50, 0x02, 0x08, 0x58, 0x52, 0x50, 0x2D, 0x42, 0x54, 0x30, 0x31] =
    .ok (.agInit .registrationFailed [0x58, 0x52, 0x50, 0x2D, 0x42, 0x54, 0x30, 0x31]) ∧
  decode Config.default [0x05] = .error (.reservedOp 0x05)

/-- R84, R92: the bytes of a response. -/
def Obligations.ResponseBytes : Prop :=
  ∀ repr : AxisRepr,
    (Answer.ok .done).bytes repr = some [0x00] ∧
    (Answer.ok (.bool false)).bytes repr = some [0x00, 0x00] ∧
    (Answer.ok (.bool true)).bytes repr = some [0x00, 0x01] ∧
    (∀ b, (Answer.ok (.raw b)).bytes repr = some [0x00, b] ∧ (Answer.ok (.angle b)).bytes repr = some [0x00, b]) ∧
    (∀ n : Int, -255 ≤ n → n ≤ 255 → ∃ lo hi : Byte,
      (Answer.ok (.axis n)).bytes .numeratorOver255 = some [0x00, lo, hi] ∧ (hi ++ lo).toInt = n) ∧
    (∀ f, (Answer.ok (.frame f)).bytes repr = some (0x00 :: f)) ∧
    (∀ l : List Byte, l.length ≤ 255 → ∃ len : Byte, len.toNat = l.length ∧
      (Answer.ok (.payload l)).bytes repr = some (0x00 :: len :: l) ∧
      (Answer.ok (.name l)).bytes repr = some (0x00 :: len :: l)) ∧
    (∀ vs : List (List Byte), vs.length ≤ 255 → (∀ v ∈ vs, v.length ≤ 255) → ∃ (count : Byte) (lens : List Byte),
      count.toNat = vs.length ∧ lens.map (fun b => b.toNat) = vs.map List.length ∧
      (Answer.ok (.values vs)).bytes repr = some (0x00 :: count :: (List.zipWith (fun len v => len :: v) lens vs).flatten) ∧
      (Answer.ok (.uuids vs)).bytes repr = some (0x00 :: count :: (List.zipWith (fun len v => len :: v) lens vs).flatten)) ∧
    (∀ which, (Answer.initError which).bytes repr = some [0x01])

/-- R86: the bytes of an output event, a handle in `ceil(HANDLE_W / 8)` bytes, least significant first (R81). The
property bytes 0x12 and 0x0C rest on general knowledge (log entry 21). -/
def Obligations.OutputEventBytes : Prop :=
  ∀ handleW : Nat,
    OutEvent.radioActivate.bytes handleW = [0x80] ∧ OutEvent.irqRegister.bytes handleW = [0x81] ∧
    (∀ svc tx rx : Vector Byte 16,
      (OutEvent.gattRegister svc tx [.read, .notify] rx [.write, .writeWithoutResponse]).bytes handleW =
        [0x82] ++ svc.toList ++ tx.toList ++ [0x12] ++ rx.toList ++ [0x0C]) ∧
    (∀ p : List Byte, p.length ≤ 255 → ∃ len : Byte, len.toNat = p.length ∧
      (OutEvent.advertise p).bytes handleW = 0x83 :: len :: p) ∧
    (∀ (h : Nat) (data : List Byte), h < 2 ^ handleW → data.length ≤ 255 → ∃ (handle : List Byte) (len : Byte),
      handle.length = (handleW + 7) / 8 ∧ leValue handle = h ∧ len.toNat = data.length ∧
      (OutEvent.notify h data).bytes handleW = 0x84 :: handle ++ len :: data)

/-! ### The step -/

/-- R57, R58: a command taken on a port that spells an operation of that port is that operation performed whole; with no
command waiting the block is idle (log entry 2). -/
def Obligations.StepRunsTheDecodedOperation : Prop :=
  (∀ (s : State) (port : Port) (c : List Byte) (taken : State) (i : Instr), Serves s port c taken →
    decode s.cfg c = .ok i → i.port = port → step s = exec i taken) ∧
  (∀ s : State, s.eport = [] → s.pport = [] → step s = .next s)

/-- R87, R88: bytes that spell no operation of the port are answered `invalid`, and the block's state is unchanged. The
reason that stands beside the verdict, and that the port is judged last, are the model's (log entry 11, DESIGN CHOICE). -/
def Obligations.InvalidCommandsChangeNothing : Prop :=
  ∀ (s : State) (port : Port) (c : List Byte) (taken : State), Serves s port c taken →
    (∀ why, decode s.cfg c = .error why →
      step s = .next { taken with answers := taken.answers ++ [(port, .invalid why)] }) ∧
    (∀ i, decode s.cfg c = .ok i → i.port ≠ port →
      step s = .next { taken with answers := taken.answers ++ [(port, .invalid .wrongPort)] })

/-- R58, R196: each port's operations are performed in the order it issued them; with both waiting either may be first,
as `turn` says. -/
def Obligations.PortsKeepTheirOwnOrder : Prop :=
  (∀ s t : State, step s = .next t →
    (∃ c, s.eport = c :: t.eport ∧ t.pport = s.pport) ∨ (∃ c, s.pport = c :: t.pport ∧ t.eport = s.eport) ∨
    (s.eport = [] ∧ s.pport = [] ∧ t = s)) ∧
  (∀ (s : State) (c d : List Byte) (es ps : List (List Byte)), s.eport = c :: es → s.pport = d :: ps →
    (∀ t, step { s with turn := .ePort } = .next t → t.eport = es ∧ t.pport = d :: ps) ∧
    (∀ t, step { s with turn := .pPort } = .next t → t.eport = c :: es ∧ t.pport = ps))

/-- R30, R32, R190: no step changes the configuration, takes back an output event or takes back an answer, and a step that
serves a command gives exactly one answer. -/
def Obligations.OutputsOnlyGrowAndConfigurationIsFixed : Prop :=
  ∀ s t : State, step s = .next t →
    t.cfg = s.cfg ∧ s.oport <+: t.oport ∧
    ((t = s ∧ s.eport = [] ∧ s.pport = []) ∨ ∃ port a, t.answers = s.answers ++ [(port, a)])

/-- R195, R227: an event presented on the E-port is performed, always. -/
def Obligations.EventsAreAlwaysPerformed : Prop :=
  ∀ (s : State) (c : List Byte) (taken : State), Serves s .ePort c taken → ∃ t, step s = .next t

/-- R198, R199: each register is written by the operations the spec names as its writers and by no others. -/
def Obligations.RegistersHaveOnlyTheirWriters : Prop :=
  ∀ (i : Instr) (s t : State), exec i s = .next t →
    (t.frame ≠ s.frame → (∃ raw, i = .cfWrite raw) ∨ ∃ h v, i = .evWrite h .rx v) ∧
    (t.conn ≠ s.conn → (∃ h, i = .evConn h) ∨ ∃ h, i = .evDisc h) ∧
    (t.lastSend ≠ s.lastSend ∨ t.lsValid ≠ s.lsValid → ∃ now, SendsAt i now ∧ Sent i s t) ∧
    (t.advp ≠ s.advp ∨ t.initd ≠ s.initd → s.initd = false ∧ ∃ name, i = .agInit .allSucceeded name) ∧
    t.cfg = s.cfg ∧ t.eport = s.eport ∧ t.pport = s.pport ∧ t.turn = s.turn

/-- R32, R86: output events come from EV.DISC, LNK.SEND, the telemetry sends and AG.INIT alone. -/
def Obligations.OutputEventsHaveOnlyTheirSources : Prop :=
  ∀ (i : Instr) (s t : State), exec i s = .next t →
    ∃ events, t.oport = s.oport ++ events ∧
      (events ≠ [] → (∃ h, i = .evDisc h) ∨ (∃ bytes, i = .lnkSend bytes) ∨ (∃ now, SendsAt i now) ∨
        ∃ rstat name, i = .agInit rstat name)

/-- R55: an accessor leaves all state unchanged. -/
def Obligations.AccessorsChangeNothing : Prop :=
  ∀ (i : Instr) (s t : State),
    i.op ∈ [Op.lnkIsconn, .cfRawaxis, .cfAxis, .cfButton, .cfServo, .agIsconn, .agGetaxis, .agGetbtn, .agGetservo] →
    exec i s = .next t → ∃ r, t = answered s .pPort r

/-- R100: a codec operation changes no state, emits nothing, raises no exception, and returns the same result in any two
states of one configuration. TM.BUILD is as pure (R55). -/
def Obligations.CodecOperationsArePure : Prop :=
  ∀ (i : Instr) (s t u : State), i.op ∈ [Op.advEnc, .advDecf, .advDecn, .advDecs, .tmBuild] → u.cfg = s.cfg →
    exec i s = .next t → ∃ r, t = answered s .pPort r ∧ exec i u = .next (answered u .pPort r)

/-- R128: of the link-server operations only EV.WRITE touches the frame, and no control-frame operation touches the
connection set. -/
def Obligations.FrameAndConnectionSetAreIndependent : Prop :=
  ∀ (i : Instr) (s t : State), exec i s = .next t →
    (i.op ∈ [Op.evConn, .evDisc, .lnkIsconn, .lnkSend] → t.frame = s.frame) ∧
    (i.op ∈ [Op.cfWrite, .cfRawaxis, .cfAxis, .cfButton, .cfServo] → t.conn = s.conn)

/-- R183, R184: each operation of the public contract is exactly its unit operation, in every state. -/
def Obligations.ContractOperationsAreTheirTargets : Prop :=
  ∀ s : State,
    exec .agIsconn s = exec .lnkIsconn s ∧ (∀ i, exec (.agGetaxis i) s = exec (.cfAxis i) s) ∧
    (∀ n, exec (.agGetbtn n) s = exec (.cfButton n) s) ∧ exec .agGetservo s = exec .cfServo s ∧
    (∀ mv now, exec (.agBatt mv now) s = exec (.tmBatt mv now) s)

/-! ### Invariants and reset -/

/-- R22, R23, R24, R26, R27, R28: in every state that meets it, a step keeps the frame legal (at most 20 bytes, tag 1), the
connection set canonical with handles of HANDLE_W bits, LAST_SEND within TS_W bits and the payload register legal. -/
def Obligations.StepKeepsTheStateLegal : Prop :=
  ∀ s t : State, s.legal = true → step s = .next t → t.legal = true

/-- R36: the state after reset is legal, whatever the configuration R9 allows. -/
def Obligations.ResetIsLegal : Prop :=
  State.reset.legal = true ∧ ∀ c : Config, c.wf = true → (State.resetWith c).legal = true

/-- R36, R221: the registers after reset, and what the accessors then read. -/
def Obligations.ResetReadsNeutral : Prop :=
  State.reset = State.resetWith Config.default ∧ ∀ c : Config,
    let s := State.resetWith c
    s.frame.length = 0 ∧ (∀ h, h ∉ s.conn) ∧ s.advp.length = 0 ∧ s.initd = false ∧ s.cfg = c ∧
    (c.lastSendReset = none → s.lsValid = false) ∧
    (∀ now, c.lastSendReset = some now → s.lsValid = true ∧ s.lastSend = now) ∧
    (∀ i, exec (.cfRawaxis i) s = .next (answered s .pPort (.raw 127))) ∧
    (∀ i, exec (.cfAxis i) s = .next (answered s .pPort (.axis 0))) ∧
    (∀ n, exec (.cfButton n) s = .next (answered s .pPort (.bool false))) ∧
    exec .cfServo s = .next (answered s .pPort (.angle 90)) ∧
    exec .lnkIsconn s = .next (answered s .pPort (.bool false))

/-- R27, R181: after construction the advertising payload never changes and the block is never unconstructed. -/
def Obligations.PayloadIsImmutableOnceBuilt : Prop :=
  ∀ s t : State, s.initd = true → Runs s t → t.initd = true ∧ t.advp = s.advp

/-- R185: the lifecycle moves only along the edges of its table. -/
def Obligations.LifecycleMovesOnlyAlongItsEdges : Prop :=
  ∀ (i : Instr) (s t : State), exec i s = .next t → t.position ≠ s.position →
    (s.position = .unconstructed ∧ ∃ name, i = .agInit .allSucceeded name) ∨
    (s.position = .idleAdvertising ∧ t.position = .connected ∧ ∃ h, i = .evConn h) ∨
    (s.position = .connected ∧ t.position = .idleAdvertising ∧ ∃ h, i = .evDisc h)

/-- R190, R193: an operation is refused exactly when it is used outside its contract, and completes otherwise. -/
def Obligations.OperationsCompleteExactlyWithinTheirContract : Prop :=
  ∀ (i : Instr) (s : State),
    (OutsideContract i s → ∃ r, exec i s = .refused r) ∧ (¬ OutsideContract i s → ∃ t, exec i s = .next t)

/-- R193: the reason each refusal gives. Where several conditions hold together, the statement also fixes which reason is
given, and that order is partly the model's choice (log entry 13, DESIGN CHOICE): an AG.INIT of a constructed block gives
`alreadyConstructed` whatever else holds, and a bad configuration comes before every other reason of ADV.ENC and before
every later one of AG.INIT; the rest is the order of R101's and R181's pseudocode. -/
def Obligations.RefusalReasons : Prop :=
  ∀ s : State,
    (∀ rstat name, s.initd = true → exec (.agInit rstat name) s = .refused .alreadyConstructed) ∧
    (¬ s.cfg.typeCodes.Nodup →
      (∀ flags name uuids app, exec (.advEnc flags name uuids app) s = .refused .badConfiguration) ∧
      (∀ code payload, exec (.advDecf code payload) s = .refused .badConfiguration) ∧
      (∀ payload, exec (.advDecn payload) s = .refused .badConfiguration) ∧
      (∀ payload, exec (.advDecs payload) s = .refused .badConfiguration) ∧
      (s.initd = false → ∀ rstat name, exec (.agInit rstat name) s = .refused .badConfiguration)) ∧
    (s.cfg.typeCodes.Nodup →
      (s.initd = false → ∀ rstat (name : List Byte), 8 < name.length → name.length ≤ 254 →
        exec (.agInit rstat name) s = .refused .payloadTooLong) ∧
      (∀ flags (name : List Byte) uuids app, 254 < name.length →
        exec (.advEnc flags (some name) uuids app) s = .refused .valueTooLong) ∧
      (∀ flags (name : Option (List Byte)) uuids app, (∀ n, name = some n → n.length ≤ 254) →
        (∃ u ∈ uuids, ¬ WidthOk u) → exec (.advEnc flags name uuids app) s = .refused .badUuidWidth) ∧
      (∀ flags (name : Option (List Byte)) uuids app, (∀ n, name = some n → n.length ≤ 254) →
        (∀ u ∈ uuids, WidthOk u) → 255 < payloadSize name uuids app →
        exec (.advEnc flags name uuids app) s = .refused .resultTooLong)) ∧
    (∀ label color, (∃ b ∈ label, 0x80 ≤ b.toNat) →
      exec (.tmBuild label color) s = .refused .nonAsciiLabel ∧
      ∀ now, exec (.tmTrysend label color now) s = .refused .nonAsciiLabel)

/-! ### The link server -/

/-- R121: EV.CONN sets one bit of CONN, idempotently, and changes nothing else. -/
def Obligations.ConnectAddsTheHandle : Prop :=
  ∀ (h : Nat) (s : State), ∃ conn,
    exec (.evConn h) s = .next (answered { s with conn := conn } .ePort .done) ∧
    (∀ g, g ∈ conn ↔ g = h ∨ g ∈ s.conn) ∧
    (connCanonical s.conn = true → conn.Nodup ∧ (h ∈ s.conn → conn = s.conn))

/-- R122: EV.DISC clears one bit of CONN, emits one ADVERTISE of the payload register, and changes nothing else. -/
def Obligations.DisconnectRemovesTheHandleAndReadvertises : Prop :=
  ∀ (h : Nat) (s : State), ∃ conn,
    exec (.evDisc h) s =
      .next (answered { s with conn := conn, oport := s.oport ++ [.advertise s.advp] } .ePort .done) ∧
    (∀ g, g ∈ conn ↔ g ∈ s.conn ∧ g ≠ h) ∧ (h ∉ s.conn → conn = s.conn)

/-- R123: EV.WRITE is CF.WRITE when the characteristic is RX and nothing otherwise, whatever the handle. -/
def Obligations.WriteEventIsRoutedByCharacteristic : Prop :=
  ∀ (h : Nat) (char : CharSel) (value : List Byte) (s : State),
    (char = .rx → ∃ frame, FrameAfter value frame ∧
      exec (.evWrite h char value) s = .next (answered { s with frame := frame } .ePort .done) ∧
      exec (.cfWrite value) s = .next (answered { s with frame := frame } .ePort .done)) ∧
    (char ≠ .rx → exec (.evWrite h char value) s = .next (answered s .ePort .done))

/-- R124: LNK.SEND emits one NOTIFY of the bytes per member of CONN, in some order, and changes no register. -/
def Obligations.SendNotifiesEveryConnectedHandle : Prop :=
  ∀ (bytes : List Byte) (s : State), ∃ (order : List Nat) (free : Nat), order.Perm s.conn ∧
    exec (.lnkSend bytes) s =
      .next (answered { s with oport := s.oport ++ order.map (fun h => .notify h bytes), free := free } .pPort .done)

/-- R126, R183: LNK.ISCONN and AG.ISCONN report whether some handle is present, and change nothing. -/
def Obligations.ConnectionReportsNonEmptySet : Prop :=
  ∀ (i : Instr) (s : State), i = .lnkIsconn ∨ i = .agIsconn →
    ∃ b, exec i s = .next (answered s .pPort (.bool b)) ∧ (b = true ↔ ∃ h, h ∈ s.conn)

/-! ### The control frame -/

/-- R141: CF.WRITE adopts the first 20 bytes of an accepted value and otherwise goes neutral; it changes nothing else. -/
def Obligations.FrameWriteAdoptsOrGoesNeutral : Prop :=
  ∀ (raw : List Byte) (s : State),
    (raw.head? = some 1 →
      exec (.cfWrite raw) s = .next (answered { s with frame := raw.take 20 } .ePort .done)) ∧
    (raw.head? ≠ some 1 →
      exec (.cfWrite raw) s = .next (answered { s with frame := neutral } .ePort .done))

/-- R143: CF.RAWAXIS returns `x[1+i]`, or 127 when `i > 3` or the frame is too short to hold it. -/
def Obligations.RawAxisReadsItsByteOrCentre : Prop :=
  ∀ (i : Byte) (s : State),
    (∀ h : 1 + i.toNat < s.frame.length, i.toNat ≤ 3 →
      exec (.cfRawaxis i) s = .next (answered s .pPort (.raw s.frame[1 + i.toNat]))) ∧
    (3 < i.toNat ∨ s.frame.length ≤ 1 + i.toNat →
      exec (.cfRawaxis i) s = .next (answered s .pPort (.raw 127)))

/-- R145, R183: CF.AXIS and AG.GETAXIS return exactly 0 at the centre and `raw / 127.5 - 1` elsewhere. -/
def Obligations.AxisIsTheNormalisedRawByte : Prop :=
  ∀ (idx : Byte) (i : Instr) (s : State), i = .cfAxis idx ∨ i = .agGetaxis idx →
    ∃ num : Int, exec i s = .next (answered s .pPort (.axis num)) ∧
      (num : ℚ) / 255 =
        if rawAxisOf s idx = 127 then 0 else ((rawAxisOf s idx).toNat : ℚ) / (255 / 2) - 1

/-- R146: the axis value lies in [-1, 1], is `(2 r - 255) / 255` off the centre and 0 at it, is strictly increasing in the
raw byte and odd about the centre. -/
def Obligations.AxisValueIsMonotoneAndOdd : Prop :=
  ∀ (s t u v : State) (i j a b : Byte) (m n : Int),
    exec (.cfRawaxis i) s = .next (answered s .pPort (.raw a)) → exec (.cfAxis i) s = .next u →
    u = answered s .pPort (.axis m) →
    exec (.cfRawaxis j) t = .next (answered t .pPort (.raw b)) → exec (.cfAxis j) t = .next v →
    v = answered t .pPort (.axis n) →
    (-255 ≤ m ∧ m ≤ 255 ∧ (a ≠ 127 → m = 2 * (a.toNat : ℤ) - 255 ∧ m % 2 = 1) ∧ (a = 127 → m = 0)) ∧
    (a.toNat < b.toNat → m < n) ∧
    (a.toNat + b.toNat = 255 → a ≠ 127 → b ≠ 127 → n = -m)

/-- R147, R183: CF.BUTTON and AG.GETBTN return bit `n` of `field 5 + 256 * field 6`, and false above 15. -/
def Obligations.ButtonIsItsMaskBit : Prop :=
  ∀ (n : Byte) (i : Instr) (s : State), i = .cfButton n ∨ i = .agGetbtn n →
    ∃ b, exec i s = .next (answered s .pPort (.bool b)) ∧
      (b = true ↔ n.toNat ≤ 15 ∧
        ((fieldOr s 5 0).toNat + 256 * (fieldOr s 6 0).toNat) / 2 ^ n.toNat % 2 = 1)

/-- R148, R183: CF.SERVO and AG.GETSERVO return 90 without a field 7, and otherwise the byte clamped to 180. -/
def Obligations.ServoIsClampedOrCentred : Prop :=
  ∀ (i : Instr) (s : State), i = .cfServo ∨ i = .agGetservo →
    ∃ deg : Byte, exec i s = .next (answered s .pPort (.angle deg)) ∧
      (s.frame.length ≤ 7 → deg = 90) ∧
      (∀ h : 7 < s.frame.length, deg.toNat = min s.frame[7].toNat 180)

/-- R150 row (b), R151: after an unaccepted write, by CF.WRITE or to RX, every axis reads centre, every button false and
the servo 0, whatever the earlier frame and the rest of the value. -/
def Obligations.UnacceptedWriteGoesNeutral : Prop :=
  ∀ (raw : List Byte) (i : Instr) (s : State), ¬ Accepted raw → (i = .cfWrite raw ∨ ∃ h, i = .evWrite h .rx raw) →
    ∃ t, exec i s = .next t ∧ t.frame = neutral ∧
      (∀ idx, exec (.cfRawaxis idx) t = .next (answered t .pPort (.raw 127)) ∧
        exec (.cfAxis idx) t = .next (answered t .pPort (.axis 0))) ∧
      (∀ n, exec (.cfButton n) t = .next (answered t .pPort (.bool false))) ∧
      exec .cfServo t = .next (answered t .pPort (.angle 0))

/-! ### Telemetry -/

/-- R161, R162: TM.BUILD packs the padded label and the colour into 11 bytes, and changes nothing; a label that is not ASCII
is refused. -/
def Obligations.BuildPacksLabelAndColour : Prop :=
  ∀ (label color : List Byte) (s : State),
    ((∃ b ∈ label, 0x80 ≤ b.toNat) → exec (.tmBuild label color) s = .refused .nonAsciiLabel) ∧
    ((∀ b ∈ label, b.toNat < 0x80) → ∃ (f : List Byte) (c : Nat),
      exec (.tmBuild label color) s = .next (answered s .pPort (.frame f)) ∧ f.length = 11 ∧
      (∀ k, k < 8 → f[k]? = some (if h : k < label.length then label[k] else 0)) ∧
      IsColour color c ∧
      (f[8]?).map (fun b => b.toNat) = some (c / 65536) ∧
      (f[9]?).map (fun b => b.toNat) = some (c / 256 % 256) ∧
      (f[10]?).map (fun b => b.toNat) = some (c % 256))

/-- R164: TM.TRYSEND is suppressed within 500 ms of the last send, and otherwise notifies the frame of TM.BUILD to every
member of CONN, in some order, and records the time; a label that is not ASCII is refused before the rate test. -/
def Obligations.TrySendSuppressesOrSends : Prop :=
  ∀ (label color : List Byte) (now : Nat) (s : State),
    ((∃ b ∈ label, 0x80 ≤ b.toNat) → exec (.tmTrysend label color now) s = .refused .nonAsciiLabel) ∧
    ((∀ b ∈ label, b.toNat < 0x80) → s.lsValid = true ∧ now < s.lastSend + 500 →
      exec (.tmTrysend label color now) s = .next (answered s .pPort (.bool false))) ∧
    ((∀ b ∈ label, b.toNat < 0x80) → s.lsValid = false ∨ s.lastSend + 500 ≤ now →
      ∃ (f : List Byte) (order : List Nat) (free : Nat),
        exec (.tmBuild label color) s = .next (answered s .pPort (.frame f)) ∧ order.Perm s.conn ∧
        exec (.tmTrysend label color now) s =
          .next (answered { s with oport := s.oport ++ order.map (fun h => .notify h f), free := free,
                                   lastSend := now, lsValid := true } .pPort (.bool true)))

/-- R166, R167, R184: TM.BATT and AG.BATT are TM.TRYSEND of the formatted voltage and its threshold colour, and complete
in every state. -/
def Obligations.BatteryReportIsATelemetrySend : Prop :=
  ∀ (mv : Millivolts) (now : Nat) (i : Instr) (s : State), i = .tmBatt mv now ∨ i = .agBatt mv now →
    ∃ (label : List Byte) (t : State), IsBatteryLabel mv label ∧ exec i s = .next t ∧
      exec (.tmTrysend label (batteryColour mv) now) s = .next t

/-- R165: along every run, two operations that report a send have times at least 500 apart; one that completes and whose
time is at least 500 above the last send's reports a send; and one that reports none changed nothing. -/
def Obligations.SendsAreAtLeastFiveHundredApart : Prop :=
  ∀ (i j : Instr) (now later : Nat) (s t u : State), SendsAt i now → SendsAt j later → Sent i s t → Runs t u →
    (∀ v, Sent j u v → now + 500 ≤ later) ∧
    (u.lastSend + 500 ≤ later → ∀ v, exec j u = .next v → Sent j u v ∧ v.lastSend = later) ∧
    (∀ v, exec j u = .next v → ¬ Sent j u v → v = answered u .pPort (.bool false))

/-! ### The advertising codec -/

/-- R101, R102: ADV.ENC returns the records of its present options in the fixed order, of the size R102 gives. -/
def Obligations.EncodedPayloadIsItsRecords : Prop :=
  ∀ (flags : Byte) (name : Option (List Byte)) (uuids : List (List Byte)) (appearance : Option (BitVec 16)) (s : State),
    s.cfg.typeCodes.Nodup → (∀ n, name = some n → n.length ≤ 254) → (∀ u ∈ uuids, WidthOk u) →
    payloadSize name uuids appearance ≤ 255 →
    exec (.advEnc flags name uuids appearance) s =
      .next (answered s .pPort (.payload (payloadOf s.cfg flags name uuids appearance))) ∧
    (payloadOf s.cfg flags name uuids appearance).length = payloadSize name uuids appearance

/-- R103: every payload is a sequence of whole records and then a place where the scan stops; ADV.DECF returns the values
of the records of its type, in payload order. -/
def Obligations.DecodeFieldReturnsTheMatchingValues : Prop :=
  ∀ (code : Byte) (payload : List Byte) (s : State), s.cfg.typeCodes.Nodup →
    ∃ (records : List (Byte × List Byte)) (rest : List Byte),
      payload = tlvs records ++ rest ∧ (∀ r ∈ records, r.2.length ≤ 254) ∧ StopsScan rest ∧
      exec (.advDecf code payload) s =
        .next (answered s .pPort (.values ((records.filter fun r => r.1 == code).map Prod.snd)))

/-- R105: ADV.DECN returns the first value ADV.DECF finds of type T_NAME, and the empty sequence when it finds none. -/
def Obligations.DecodeNameIsTheFirstNameRecord : Prop :=
  ∀ (payload : List Byte) (s : State), s.cfg.typeCodes.Nodup →
    ∃ (vs : List (List Byte)) (name : List Byte),
      exec (.advDecf s.cfg.tName payload) s = .next (answered s .pPort (.values vs)) ∧
      (vs = [] → name = []) ∧ (∀ v more, vs = v :: more → name = v) ∧
      exec (.advDecn payload) s = .next (answered s .pPort (.name name))

/-- R106: ADV.DECS returns the 16-bit, then the 32-bit, then the 128-bit UUIDs, each value of ADV.DECF cut into whole
UUIDs in order. -/
def Obligations.DecodeServicesCutsEachValueIntoUuids : Prop :=
  ∀ (payload : List Byte) (s : State), s.cfg.typeCodes.Nodup →
    ∃ (v16 v32 v128 : List (List Byte)),
      exec (.advDecf s.cfg.tUuid16 payload) s = .next (answered s .pPort (.values v16)) ∧
      exec (.advDecf s.cfg.tUuid32 payload) s = .next (answered s .pPort (.values v32)) ∧
      exec (.advDecf s.cfg.tUuid128 payload) s = .next (answered s .pPort (.values v128)) ∧
      exec (.advDecs payload) s = .next (answered s .pPort (.uuids (
        (v16.map fun v => (List.range (v.length / 2)).map fun k => (v.drop (k * 2)).take 2).flatten ++
        (v32.map fun v => (List.range (v.length / 4)).map fun k => (v.drop (k * 4)).take 4).flatten ++
        (v128.map fun v => (List.range (v.length / 16)).map fun k => (v.drop (k * 16)).take 16).flatten)))

/-- R107: decoding an encoded payload gives back the name, and the UUIDs grouped by width, each group in the order given. -/
def Obligations.DecodingAnEncodedPayloadRoundTrips : Prop :=
  ∀ (flags : Byte) (name : Option (List Byte)) (uuids : List (List Byte)) (appearance : Option (BitVec 16))
    (p : List Byte) (s t : State), s.cfg.typeCodes.Nodup →
    exec (.advEnc flags name uuids appearance) s = .next (answered s .pPort (.payload p)) → t.cfg = s.cfg →
    exec (.advDecn p) t = .next (answered t .pPort (.name (name.getD []))) ∧
    exec (.advDecs p) t = .next (answered t .pPort (.uuids (
      uuids.filter (fun u => u.length == 2) ++ uuids.filter (fun u => u.length == 4) ++
      uuids.filter (fun u => u.length == 16))))

/-! ### The link agent -/

/-- R182 and R181's success: with every request succeeding and a name of at most 8 bytes, AG.INIT drives the radio through
its four requests, loads the payload of `23 + n` bytes and sets INITD, and touches no other register; a longer name's
payload does not fit and is refused. -/
def Obligations.ConstructionLoadsThePayload : Prop :=
  ∀ (name : List Byte) (s : State), s.initd = false → s.cfg.typeCodes.Nodup →
    (name.length ≤ 8 → ∃ p : List Byte,
      p = [2, s.cfg.tFlags, s.cfg.advFlags] ++ tlv s.cfg.tName name ++ [17, s.cfg.tUuid128] ++ s.cfg.svcUuid.toList ∧
      p.length = 23 + name.length ∧
      exec (.agInit .allSucceeded name) s =
        .next (answered { s with
          advp := p, initd := true,
          oport := s.oport ++
            [.radioActivate, .irqRegister,
             .gattRegister s.cfg.svcUuid s.cfg.txUuid [.read, .notify] s.cfg.rxUuid [.write, .writeWithoutResponse],
             .advertise p] } .pPort .done)) ∧
    (8 < name.length → ∀ rstat, ∃ r, exec (.agInit rstat name) s = .refused r ∧
      (name.length ≤ 254 → r = .payloadTooLong))

/-- R181, R192, R197: a failing request ends AG.INIT with InitError; the events up to and including it were emitted and
nothing else changed. -/
def Obligations.FailedConstructionChangesNoRegister : Prop :=
  ∀ (name : List Byte) (s : State), s.initd = false → s.cfg.typeCodes.Nodup → name.length ≤ 8 →
    let p := [2, s.cfg.tFlags, s.cfg.advFlags] ++ tlv s.cfg.tName name ++ [17, s.cfg.tUuid128] ++ s.cfg.svcUuid.toList
    let gatt := OutEvent.gattRegister s.cfg.svcUuid s.cfg.txUuid [.read, .notify] s.cfg.rxUuid [.write, .writeWithoutResponse]
    let failed := fun (which : InitStage) (events : List OutEvent) =>
      ({ s with oport := s.oport ++ events, answers := s.answers ++ [(.pPort, .initError which)] } : State)
    exec (.agInit .activationFailed name) s = .next (failed .activate [.radioActivate]) ∧
    exec (.agInit .registrationFailed name) s = .next (failed .register [.radioActivate, .irqRegister, gatt]) ∧
    exec (.agInit .advertiseFailed name) s =
      .next (failed .advertise [.radioActivate, .irqRegister, gatt, .advertise p])
end

