-- ==== Sys2Proof/Laws/Decode.lean ====
section
/-! SUPPORT. What the decoder's field readers answer on the bytes the encoder's field writers give. -/

namespace Sys2Proof

/-- The operation map has no two rows with one byte: the lookup of an operation's byte finds that operation. -/
theorem Op.ofByte_byte (op : Op) : Op.ofByte op.byte = some op := by cases op <;> rfl

theorem takeU16_le16 (v : BitVec 16) (rest : List Byte) : takeU16 (le16 v ++ rest) = .ok (v, rest) := by
  simp only [le16, List.cons_append, List.nil_append, takeU16]
  congr 2
  apply BitVec.eq_of_getLsbD_eq
  intro k hk
  simp only [BitVec.getLsbD_append, BitVec.getLsbD_extractLsb']
  by_cases h : k < 8
  · simp [h]
  · have h8 : k - 8 < 8 := by omega
    have hk' : 8 + (k - 8) = k := by omega
    simp [h, h8, hk']

theorem takeLe_leBytes (n v : Nat) (rest : List Byte) : takeLe n (leBytes n v ++ rest) = .ok (v % 256 ^ n, rest) := by
  induction n generalizing v with
  | zero => simp [takeLe, leBytes, Nat.mod_one]
  | succ n ih =>
    simp only [leBytes, List.cons_append, takeLe, bind, Except.bind, ih, BitVec.toNat_ofNat]
    rw [show v % 2 ^ 8 = v % 256 from rfl, show 256 ^ (n + 1) = 256 * 256 ^ n from Nat.pow_succ', Nat.mod_mul]

theorem two_pow_le_bytes (w : Nat) : 2 ^ w ≤ 256 ^ bytesOf w := by
  rw [show (256 : Nat) = 2 ^ 8 from rfl, ← Nat.pow_mul]
  exact Nat.pow_le_pow_right (by decide) (by unfold bytesOf; omega)

/-- A quantity that fits its width is read back from the bytes that carry it. -/
theorem takeField_leField {w v : Nat} (h : fitsWidth w v = true) (rest : List Byte) :
    takeField w (leField w v ++ rest) = .ok (v, rest) := by
  have hv : v < 2 ^ w := by simpa [fitsWidth] using h
  have hm : v % 256 ^ bytesOf w = v := Nat.mod_eq_of_lt (hv.trans_le (two_pow_le_bytes w))
  simp [takeField, leField, takeLe_leBytes, bind, Except.bind, hm, hv]

theorem takeBytes_append (data rest : List Byte) : takeBytes data.length (data ++ rest) = .ok (data, rest) := by
  induction data with
  | nil => rfl
  | cons b bs ih => simp [takeBytes, ih, bind, Except.bind]

theorem lenByte_toNat {α : Type} {l : List α} (h : l.length ≤ 255) : (lenByte l).toNat = l.length := by
  simp only [lenByte, BitVec.toNat_ofNat]
  omega

/-- A length byte is 0 for the empty sequence alone. -/
theorem lenByte_eq_zero {data : List Byte} (h : data.length ≤ 255) : lenByte data = 0 ↔ data = [] := by
  refine ⟨fun e => ?_, fun e => e ▸ rfl⟩
  have := lenByte_toNat h
  rw [e] at this
  exact List.length_eq_zero_iff.mp this.symm

/-- Format A reads its name's length byte and its name apart. -/
theorem takeBytes_lenByte {data : List Byte} (h : data.length ≤ 255) (rest : List Byte) :
    takeBytes (lenByte data).toNat (data ++ rest) = .ok (data, rest) := by
  rw [lenByte_toNat h, takeBytes_append]

theorem takeLenBytes_lenBytes {data : List Byte} (h : data.length ≤ 255) (rest : List Byte) :
    takeLenBytes (lenBytes data ++ rest) = .ok (data, rest) := by
  simp [takeLenBytes, lenBytes, takeU8, bind, Except.bind, lenByte_toNat h, takeBytes_append]

theorem takeUuids_flatMap {uuids : List (List Byte)} (h : uuids.all uuidWidthOk = true) (rest : List Byte) :
    takeUuids uuids.length (uuids.flatMap lenBytes ++ rest) = .ok (uuids, rest) := by
  induction uuids with
  | nil => rfl
  | cons u us ih =>
    simp only [List.all_cons, Bool.and_eq_true] at h
    have hw := h.1
    simp only [uuidWidthOk, Bool.or_eq_true, beq_iff_eq] at hw
    have hl : (lenByte u).toNat = u.length := lenByte_toNat (by omega)
    have hw' : lenByte u = 2 ∨ lenByte u = 4 ∨ lenByte u = 16 := by
      rcases hw with (h | h) | h <;> simp [lenByte, h]
    simp only [List.flatMap_cons, List.length_cons, lenBytes, List.cons_append, List.append_assoc, takeUuids, takeU8,
      bind, Except.bind, if_pos hw', hl, takeBytes_append, ih h.2]

theorem CharSel.ofByte_byte {char : CharSel} (h : char.wf = true) : CharSel.ofByte char.byte = char := by
  cases char with
  | tx => rfl
  | rx => rfl
  | other sel =>
    simp only [CharSel.wf, decide_eq_true_eq] at h
    have h0 : sel ≠ 0 := by rintro rfl; simp at h
    have h1 : sel ≠ 1 := by rintro rfl; simp at h
    show (if sel = 0 then CharSel.tx else if sel = 1 then .rx else .other sel) = .other sel
    rw [if_neg h0, if_neg h1]

theorem RStat.ofByte_byte (r : RStat) : RStat.ofByte r.byte = .ok r := by cases r <;> rfl

/-- The three readings of format A's `present` byte. -/
theorem presentByte_bits (name : Option (List Byte)) (appearance : Option (BitVec 16)) :
    (presentByte name appearance).extractLsb' 2 6 = 0 ∧
    (presentByte name appearance).getLsbD 0 = name.isSome ∧
    (presentByte name appearance).getLsbD 1 = appearance.isSome := by
  cases name <;> cases appearance <;> simp only [presentByte, Option.isSome] <;> decide

/-! ### What a reader that succeeded has read -/

/-- Peel the first reader off a sequence of readers. -/
theorem bind_eq_ok {α β : Type} {x : Except Invalid α} {f : α → Except Invalid β} {r : β} :
    (x >>= f) = .ok r ↔ ∃ a, x = .ok a ∧ f a = .ok r := by
  cases x <;> simp [bind, Except.bind]

theorem takeU8_eq_ok {bs rest : List Byte} {b : Byte} : takeU8 bs = .ok (b, rest) ↔ bs = b :: rest := by
  cases bs <;> simp [takeU8]

theorem takeU16_eq_ok {bs rest : List Byte} {v : BitVec 16} : takeU16 bs = .ok (v, rest) ↔ bs = le16 v ++ rest := by
  constructor
  · intro h
    match bs, h with
    | b0 :: b1 :: bs, h =>
      simp only [takeU16, Except.ok.injEq, Prod.mk.injEq] at h
      obtain ⟨rfl, rfl⟩ := h
      have e0 : (b1 ++ b0).extractLsb' 0 8 = b0 := by
        apply BitVec.eq_of_getLsbD_eq
        intro k hk
        rw [BitVec.getLsbD_extractLsb', BitVec.getLsbD_append]
        simp [hk]
      have e1 : (b1 ++ b0).extractLsb' 8 8 = b1 := by
        apply BitVec.eq_of_getLsbD_eq
        intro k hk
        rw [BitVec.getLsbD_extractLsb', BitVec.getLsbD_append]
        simp [hk]
      show b0 :: b1 :: bs = (b1 ++ b0).extractLsb' 0 8 :: (b1 ++ b0).extractLsb' 8 8 :: bs
      rw [e0, e1]
  · rintro rfl; exact takeU16_le16 v rest

theorem takeLe_eq_ok {n v : Nat} {bs rest : List Byte} (h : takeLe n bs = .ok (v, rest)) :
    bs = leBytes n v ++ rest := by
  induction n generalizing v bs with
  | zero => simp only [takeLe, Except.ok.injEq, Prod.mk.injEq] at h; simp [leBytes, h.2]
  | succ n ih =>
    match bs, h with
    | b :: bs, h =>
      obtain ⟨⟨high, rest'⟩, h1, h2⟩ := bind_eq_ok.mp h
      injection h2 with h2
      injection h2 with hv hr
      subst hv hr
      have hb := b.isLt
      have e1 : (b.toNat + 256 * high) / 256 = high := by omega
      have e2 : BitVec.ofNat 8 (b.toNat + 256 * high) = b := by
        apply BitVec.eq_of_toNat_eq
        simp only [BitVec.toNat_ofNat]; omega
      rw [leBytes, e1, e2, ih h1, List.cons_append]

theorem takeField_eq_ok {w v : Nat} {bs rest : List Byte} :
    takeField w bs = .ok (v, rest) ↔ bs = leField w v ++ rest ∧ fitsWidth w v = true := by
  constructor
  · intro h
    obtain ⟨⟨v', rest'⟩, h1, h2⟩ := bind_eq_ok.mp h
    by_cases hw : v' < 2 ^ w
    · simp only [hw, if_true, Except.ok.injEq, Prod.mk.injEq] at h2
      obtain ⟨rfl, rfl⟩ := h2
      exact ⟨takeLe_eq_ok h1, by simpa [fitsWidth]⟩
    · simp [hw] at h2
  · rintro ⟨rfl, h⟩; exact takeField_leField h rest

theorem takeBytes_eq_ok {n : Nat} {bs data rest : List Byte} :
    takeBytes n bs = .ok (data, rest) ↔ bs = data ++ rest ∧ data.length = n := by
  constructor
  · intro h
    induction n generalizing bs data with
    | zero => simp only [takeBytes, Except.ok.injEq, Prod.mk.injEq] at h; simp [← h.1, h.2]
    | succ n ih =>
      match bs, h with
      | b :: bs, h =>
        obtain ⟨⟨taken, rest'⟩, h1, h2⟩ := bind_eq_ok.mp h
        simp only [Except.ok.injEq, Prod.mk.injEq] at h2
        obtain ⟨rfl, rfl⟩ := h2
        obtain ⟨rfl, rfl⟩ := ih h1
        exact ⟨rfl, rfl⟩
  · rintro ⟨rfl, rfl⟩; exact takeBytes_append data rest

theorem takeLenBytes_eq_ok {bs data rest : List Byte} :
    takeLenBytes bs = .ok (data, rest) ↔ bs = lenBytes data ++ rest ∧ data.length ≤ 255 := by
  constructor
  · intro h
    obtain ⟨⟨len, bs'⟩, h1, h2⟩ := bind_eq_ok.mp h
    obtain rfl := takeU8_eq_ok.mp h1
    obtain ⟨rfl, hl⟩ := takeBytes_eq_ok.mp h2
    have e : lenByte data = len := by simp [lenByte, hl]
    exact ⟨by rw [lenBytes, e, List.cons_append], by have := len.isLt; omega⟩
  · rintro ⟨rfl, h⟩; exact takeLenBytes_lenBytes h rest

theorem takeUuids_eq_ok {n : Nat} {bs rest : List Byte} {uuids : List (List Byte)} :
    takeUuids n bs = .ok (uuids, rest) ↔
      bs = uuids.flatMap lenBytes ++ rest ∧ uuids.length = n ∧ uuids.all uuidWidthOk = true := by
  constructor
  · intro h
    induction n generalizing bs uuids with
    | zero => simp only [takeUuids, Except.ok.injEq, Prod.mk.injEq] at h; simp [← h.1, h.2]
    | succ n ih =>
      obtain ⟨⟨w, bs1⟩, h1, h2⟩ := bind_eq_ok.mp h
      obtain rfl := takeU8_eq_ok.mp h1
      dsimp only at h2
      split at h2
      · rename_i hw
        obtain ⟨⟨u, bs2⟩, h3, h4⟩ := bind_eq_ok.mp h2
        obtain ⟨⟨us, bs3⟩, h5, h6⟩ := bind_eq_ok.mp h4
        simp only [Except.ok.injEq, Prod.mk.injEq] at h6
        obtain ⟨rfl, rfl⟩ := h6
        obtain ⟨rfl, hl⟩ := takeBytes_eq_ok.mp h3
        obtain ⟨rfl, rfl, hall⟩ := ih h5
        have e : lenByte u = w := by simp [lenByte, hl]
        refine ⟨by simp [lenBytes, e], rfl, ?_⟩
        simp only [List.all_cons, hall, Bool.and_true]
        rcases hw with rfl | rfl | rfl <;> simp [uuidWidthOk, hl]
      · simp at h2
  · rintro ⟨rfl, rfl, h⟩; exact takeUuids_flatMap h rest

theorem CharSel.ofByte_wf (b : Byte) : (CharSel.ofByte b).wf = true ∧ (CharSel.ofByte b).byte = b := by
  unfold CharSel.ofByte
  split
  · rename_i h; exact ⟨rfl, h.symm⟩
  · split
    · rename_i h; exact ⟨rfl, h.symm⟩
    · rename_i h0 h1
      refine ⟨decide_eq_true ?_, rfl⟩
      have n0 : b.toNat ≠ 0 := fun e => h0 (BitVec.eq_of_toNat_eq e)
      have n1 : b.toNat ≠ 1 := fun e => h1 (BitVec.eq_of_toNat_eq e)
      omega

theorem RStat.ofByte_eq_ok {b : Byte} {r : RStat} : RStat.ofByte b = .ok r ↔ b = r.byte := by
  constructor
  · unfold RStat.ofByte
    split
    · rintro ⟨⟩; assumption
    · split
      · rintro ⟨⟩; assumption
      · split
        · rintro ⟨⟩; assumption
        · split
          · rintro ⟨⟩; assumption
          · intro h; simp at h
  · rintro rfl; exact RStat.ofByte_byte r

theorem Op.ofByte_eq_some {b : Byte} {op : Op} : Op.ofByte b = some op ↔ b = op.byte := by
  constructor
  · intro h
    have h' : (op.byte == b) = true := List.find?_some (p := fun o : Op => o.byte == b) (l := Op.all) h
    exact (beq_iff_eq.mp h').symm
  · rintro rfl; exact Op.ofByte_byte op

theorem decode_eq_ok {c : Config} {bytes : List Byte} {i : Instr} :
    decode c bytes = .ok i ↔ decodeHead c bytes = .ok (i, []) := by
  unfold decode
  split <;> simp_all

end Sys2Proof
end

