-- ==== Sys2Proof/Laws/State.lean ====
section
/-! SUPPORT. One lemma per field per update of the state, so that no proof unfolds a record update. -/

namespace Sys2Proof.Machine

/-! ### `setFrame` -/

@[simp] theorem State.setFrame_cfg (s : State) (frame : List Byte) : (s.setFrame frame).cfg = s.cfg := rfl
@[simp] theorem State.setFrame_frame (s : State) (frame : List Byte) : (s.setFrame frame).frame = frame := rfl
@[simp] theorem State.setFrame_conn (s : State) (frame : List Byte) : (s.setFrame frame).conn = s.conn := rfl
@[simp] theorem State.setFrame_lastSend (s : State) (frame : List Byte) : (s.setFrame frame).lastSend = s.lastSend := rfl
@[simp] theorem State.setFrame_lsValid (s : State) (frame : List Byte) : (s.setFrame frame).lsValid = s.lsValid := rfl
@[simp] theorem State.setFrame_advp (s : State) (frame : List Byte) : (s.setFrame frame).advp = s.advp := rfl
@[simp] theorem State.setFrame_initd (s : State) (frame : List Byte) : (s.setFrame frame).initd = s.initd := rfl
@[simp] theorem State.setFrame_eport (s : State) (frame : List Byte) : (s.setFrame frame).eport = s.eport := rfl
@[simp] theorem State.setFrame_pport (s : State) (frame : List Byte) : (s.setFrame frame).pport = s.pport := rfl
@[simp] theorem State.setFrame_turn (s : State) (frame : List Byte) : (s.setFrame frame).turn = s.turn := rfl
@[simp] theorem State.setFrame_free (s : State) (frame : List Byte) : (s.setFrame frame).free = s.free := rfl
@[simp] theorem State.setFrame_oport (s : State) (frame : List Byte) : (s.setFrame frame).oport = s.oport := rfl
@[simp] theorem State.setFrame_answers (s : State) (frame : List Byte) : (s.setFrame frame).answers = s.answers := rfl

/-! ### `setConn` -/

@[simp] theorem State.setConn_cfg (s : State) (conn : List Nat) : (s.setConn conn).cfg = s.cfg := rfl
@[simp] theorem State.setConn_frame (s : State) (conn : List Nat) : (s.setConn conn).frame = s.frame := rfl
@[simp] theorem State.setConn_conn (s : State) (conn : List Nat) : (s.setConn conn).conn = conn := rfl
@[simp] theorem State.setConn_lastSend (s : State) (conn : List Nat) : (s.setConn conn).lastSend = s.lastSend := rfl
@[simp] theorem State.setConn_lsValid (s : State) (conn : List Nat) : (s.setConn conn).lsValid = s.lsValid := rfl
@[simp] theorem State.setConn_advp (s : State) (conn : List Nat) : (s.setConn conn).advp = s.advp := rfl
@[simp] theorem State.setConn_initd (s : State) (conn : List Nat) : (s.setConn conn).initd = s.initd := rfl
@[simp] theorem State.setConn_eport (s : State) (conn : List Nat) : (s.setConn conn).eport = s.eport := rfl
@[simp] theorem State.setConn_pport (s : State) (conn : List Nat) : (s.setConn conn).pport = s.pport := rfl
@[simp] theorem State.setConn_turn (s : State) (conn : List Nat) : (s.setConn conn).turn = s.turn := rfl
@[simp] theorem State.setConn_free (s : State) (conn : List Nat) : (s.setConn conn).free = s.free := rfl
@[simp] theorem State.setConn_oport (s : State) (conn : List Nat) : (s.setConn conn).oport = s.oport := rfl
@[simp] theorem State.setConn_answers (s : State) (conn : List Nat) : (s.setConn conn).answers = s.answers := rfl

/-! ### `recordSend` -/

@[simp] theorem State.recordSend_cfg (s : State) (now : Nat) : (s.recordSend now).cfg = s.cfg := rfl
@[simp] theorem State.recordSend_frame (s : State) (now : Nat) : (s.recordSend now).frame = s.frame := rfl
@[simp] theorem State.recordSend_conn (s : State) (now : Nat) : (s.recordSend now).conn = s.conn := rfl
@[simp] theorem State.recordSend_lastSend (s : State) (now : Nat) : (s.recordSend now).lastSend = now := rfl
@[simp] theorem State.recordSend_lsValid (s : State) (now : Nat) : (s.recordSend now).lsValid = true := rfl
@[simp] theorem State.recordSend_advp (s : State) (now : Nat) : (s.recordSend now).advp = s.advp := rfl
@[simp] theorem State.recordSend_initd (s : State) (now : Nat) : (s.recordSend now).initd = s.initd := rfl
@[simp] theorem State.recordSend_eport (s : State) (now : Nat) : (s.recordSend now).eport = s.eport := rfl
@[simp] theorem State.recordSend_pport (s : State) (now : Nat) : (s.recordSend now).pport = s.pport := rfl
@[simp] theorem State.recordSend_turn (s : State) (now : Nat) : (s.recordSend now).turn = s.turn := rfl
@[simp] theorem State.recordSend_free (s : State) (now : Nat) : (s.recordSend now).free = s.free := rfl
@[simp] theorem State.recordSend_oport (s : State) (now : Nat) : (s.recordSend now).oport = s.oport := rfl
@[simp] theorem State.recordSend_answers (s : State) (now : Nat) : (s.recordSend now).answers = s.answers := rfl

/-! ### `loadPayload` -/

@[simp] theorem State.loadPayload_cfg (s : State) (p : List Byte) : (s.loadPayload p).cfg = s.cfg := rfl
@[simp] theorem State.loadPayload_frame (s : State) (p : List Byte) : (s.loadPayload p).frame = s.frame := rfl
@[simp] theorem State.loadPayload_conn (s : State) (p : List Byte) : (s.loadPayload p).conn = s.conn := rfl
@[simp] theorem State.loadPayload_lastSend (s : State) (p : List Byte) : (s.loadPayload p).lastSend = s.lastSend := rfl
@[simp] theorem State.loadPayload_lsValid (s : State) (p : List Byte) : (s.loadPayload p).lsValid = s.lsValid := rfl
@[simp] theorem State.loadPayload_advp (s : State) (p : List Byte) : (s.loadPayload p).advp = p := rfl
@[simp] theorem State.loadPayload_initd (s : State) (p : List Byte) : (s.loadPayload p).initd = true := rfl
@[simp] theorem State.loadPayload_eport (s : State) (p : List Byte) : (s.loadPayload p).eport = s.eport := rfl
@[simp] theorem State.loadPayload_pport (s : State) (p : List Byte) : (s.loadPayload p).pport = s.pport := rfl
@[simp] theorem State.loadPayload_turn (s : State) (p : List Byte) : (s.loadPayload p).turn = s.turn := rfl
@[simp] theorem State.loadPayload_free (s : State) (p : List Byte) : (s.loadPayload p).free = s.free := rfl
@[simp] theorem State.loadPayload_oport (s : State) (p : List Byte) : (s.loadPayload p).oport = s.oport := rfl
@[simp] theorem State.loadPayload_answers (s : State) (p : List Byte) : (s.loadPayload p).answers = s.answers := rfl

/-! ### `emits` -/

@[simp] theorem State.emits_cfg (s : State) (events : List OutEvent) : (s.emits events).cfg = s.cfg := rfl
@[simp] theorem State.emits_frame (s : State) (events : List OutEvent) : (s.emits events).frame = s.frame := rfl
@[simp] theorem State.emits_conn (s : State) (events : List OutEvent) : (s.emits events).conn = s.conn := rfl
@[simp] theorem State.emits_lastSend (s : State) (events : List OutEvent) : (s.emits events).lastSend = s.lastSend := rfl
@[simp] theorem State.emits_lsValid (s : State) (events : List OutEvent) : (s.emits events).lsValid = s.lsValid := rfl
@[simp] theorem State.emits_advp (s : State) (events : List OutEvent) : (s.emits events).advp = s.advp := rfl
@[simp] theorem State.emits_initd (s : State) (events : List OutEvent) : (s.emits events).initd = s.initd := rfl
@[simp] theorem State.emits_eport (s : State) (events : List OutEvent) : (s.emits events).eport = s.eport := rfl
@[simp] theorem State.emits_pport (s : State) (events : List OutEvent) : (s.emits events).pport = s.pport := rfl
@[simp] theorem State.emits_turn (s : State) (events : List OutEvent) : (s.emits events).turn = s.turn := rfl
@[simp] theorem State.emits_free (s : State) (events : List OutEvent) : (s.emits events).free = s.free := rfl
@[simp] theorem State.emits_oport (s : State) (events : List OutEvent) : (s.emits events).oport = s.oport ++ events := rfl
@[simp] theorem State.emits_answers (s : State) (events : List OutEvent) : (s.emits events).answers = s.answers := rfl

/-! ### `respond` -/

@[simp] theorem State.respond_cfg (s : State) (port : Port) (a : Answer) : (s.respond port a).cfg = s.cfg := rfl
@[simp] theorem State.respond_frame (s : State) (port : Port) (a : Answer) : (s.respond port a).frame = s.frame := rfl
@[simp] theorem State.respond_conn (s : State) (port : Port) (a : Answer) : (s.respond port a).conn = s.conn := rfl
@[simp] theorem State.respond_lastSend (s : State) (port : Port) (a : Answer) : (s.respond port a).lastSend = s.lastSend := rfl
@[simp] theorem State.respond_lsValid (s : State) (port : Port) (a : Answer) : (s.respond port a).lsValid = s.lsValid := rfl
@[simp] theorem State.respond_advp (s : State) (port : Port) (a : Answer) : (s.respond port a).advp = s.advp := rfl
@[simp] theorem State.respond_initd (s : State) (port : Port) (a : Answer) : (s.respond port a).initd = s.initd := rfl
@[simp] theorem State.respond_eport (s : State) (port : Port) (a : Answer) : (s.respond port a).eport = s.eport := rfl
@[simp] theorem State.respond_pport (s : State) (port : Port) (a : Answer) : (s.respond port a).pport = s.pport := rfl
@[simp] theorem State.respond_turn (s : State) (port : Port) (a : Answer) : (s.respond port a).turn = s.turn := rfl
@[simp] theorem State.respond_free (s : State) (port : Port) (a : Answer) : (s.respond port a).free = s.free := rfl
@[simp] theorem State.respond_oport (s : State) (port : Port) (a : Answer) : (s.respond port a).oport = s.oport := rfl
@[simp] theorem State.respond_answers (s : State) (port : Port) (a : Answer) : (s.respond port a).answers = s.answers ++ [(port, a)] := rfl

/-! ### `draw` -/

@[simp] theorem State.draw_cfg (s : State) : (s.draw).cfg = s.cfg := rfl
@[simp] theorem State.draw_frame (s : State) : (s.draw).frame = s.frame := rfl
@[simp] theorem State.draw_conn (s : State) : (s.draw).conn = s.conn := rfl
@[simp] theorem State.draw_lastSend (s : State) : (s.draw).lastSend = s.lastSend := rfl
@[simp] theorem State.draw_lsValid (s : State) : (s.draw).lsValid = s.lsValid := rfl
@[simp] theorem State.draw_advp (s : State) : (s.draw).advp = s.advp := rfl
@[simp] theorem State.draw_initd (s : State) : (s.draw).initd = s.initd := rfl
@[simp] theorem State.draw_eport (s : State) : (s.draw).eport = s.eport := rfl
@[simp] theorem State.draw_pport (s : State) : (s.draw).pport = s.pport := rfl
@[simp] theorem State.draw_turn (s : State) : (s.draw).turn = s.turn := rfl
@[simp] theorem State.draw_free (s : State) : (s.draw).free = s.free + 1 := rfl
@[simp] theorem State.draw_oport (s : State) : (s.draw).oport = s.oport := rfl
@[simp] theorem State.draw_answers (s : State) : (s.draw).answers = s.answers := rfl

/-! ### `notifyAll` -/

@[simp] theorem State.notifyAll_cfg (s : State) (bytes : List Byte) : (s.notifyAll bytes).cfg = s.cfg := rfl
@[simp] theorem State.notifyAll_frame (s : State) (bytes : List Byte) : (s.notifyAll bytes).frame = s.frame := rfl
@[simp] theorem State.notifyAll_conn (s : State) (bytes : List Byte) : (s.notifyAll bytes).conn = s.conn := rfl
@[simp] theorem State.notifyAll_lastSend (s : State) (bytes : List Byte) : (s.notifyAll bytes).lastSend = s.lastSend := rfl
@[simp] theorem State.notifyAll_lsValid (s : State) (bytes : List Byte) : (s.notifyAll bytes).lsValid = s.lsValid := rfl
@[simp] theorem State.notifyAll_advp (s : State) (bytes : List Byte) : (s.notifyAll bytes).advp = s.advp := rfl
@[simp] theorem State.notifyAll_initd (s : State) (bytes : List Byte) : (s.notifyAll bytes).initd = s.initd := rfl
@[simp] theorem State.notifyAll_eport (s : State) (bytes : List Byte) : (s.notifyAll bytes).eport = s.eport := rfl
@[simp] theorem State.notifyAll_pport (s : State) (bytes : List Byte) : (s.notifyAll bytes).pport = s.pport := rfl
@[simp] theorem State.notifyAll_turn (s : State) (bytes : List Byte) : (s.notifyAll bytes).turn = s.turn := rfl
@[simp] theorem State.notifyAll_free (s : State) (bytes : List Byte) : (s.notifyAll bytes).free = s.free + 1 := rfl
@[simp] theorem State.notifyAll_oport (s : State) (bytes : List Byte) : (s.notifyAll bytes).oport = s.oport ++ (arrange (Config.notifyPlace s.free) s.conn).map fun h => .notify h bytes := rfl
@[simp] theorem State.notifyAll_answers (s : State) (bytes : List Byte) : (s.notifyAll bytes).answers = s.answers := rfl

end Sys2Proof.Machine
end

