-- ==== Sys2Proof/Laws/Ops.lean ====
section
/-! SUPPORT. What each shared operation can do, said once: completion, the order of notifications, the connection set,
the frame of a written value, the constants of R8 in the quantities computed from them, the rate-limited send, the construction sequence. -/

namespace Sys2Proof.Machine

/-! ### Completion -/

theorem complete_eq_next {p : Port} {r : Result} {s t : State} :
    complete p r s = .next t ↔ t = s.respond p (.ok r) := by
  simp [complete, eq_comm]

theorem raiseInitError_eq_next {which : InitStage} {s t : State} :
    raiseInitError which s = .next t ↔ t = s.respond .pPort (.initError which) := by
  simp [raiseInitError, eq_comm]

/-! ### The order of notifications -/

theorem insertAt_perm {α : Type} (x : α) (ys : List α) (k : Nat) : (insertAt x ys k).Perm (x :: ys) := by
  induction ys generalizing k with
  | nil => exact .refl _
  | cons y ys ih =>
    cases k with
    | zero => exact .refl _
    | succ k => exact ((ih k).cons y).trans (.swap x y ys)

/-- Whatever the free choice of places, the result lists the same elements. -/
theorem arrange_perm {α : Type} (place : Nat → Nat) (xs : List α) : (arrange place xs).Perm xs := by
  induction xs with
  | nil => exact .refl _
  | cons x xs ih => exact (insertAt_perm x _ _).trans (ih.cons x)

/-! ### The connection set -/

theorem mem_connInsert {g h : Nat} {conn : List Nat} : g ∈ connInsert h conn ↔ g = h ∨ g ∈ conn := by
  induction conn with
  | nil => simp [connInsert]
  | cons c cs ih =>
    simp only [connInsert]
    split
    · simp
    · split
      · rename_i hc; subst hc; simp
      · simp [ih]; tauto

theorem mem_connErase {g h : Nat} {conn : List Nat} : g ∈ connErase h conn ↔ g ∈ conn ∧ g ≠ h := by
  simp [connErase]

theorem connInsert_canonical {h : Nat} {conn : List Nat} (hc : connCanonical conn = true) :
    connCanonical (connInsert h conn) = true := by
  simp only [connCanonical, decide_eq_true_eq] at *
  induction conn with
  | nil => simp [connInsert]
  | cons c cs ih =>
    have ⟨hlt, hcs⟩ := List.pairwise_cons.mp hc
    simp only [connInsert]
    split
    · rename_i h1
      exact List.pairwise_cons.mpr ⟨fun g hg => by
        rcases List.mem_cons.mp hg with rfl | hg
        · exact h1
        · exact h1.trans (hlt g hg), hc⟩
    · split
      · exact hc
      · rename_i h1 h2
        refine List.pairwise_cons.mpr ⟨fun g hg => ?_, ih hcs⟩
        rcases mem_connInsert.mp hg with rfl | hg
        · exact Nat.lt_of_le_of_ne (Nat.le_of_not_lt h1) (Ne.symm h2)
        · exact hlt g hg

theorem connErase_canonical {h : Nat} {conn : List Nat} (hc : connCanonical conn = true) :
    connCanonical (connErase h conn) = true := by
  simp only [connCanonical, decide_eq_true_eq] at *
  exact hc.filter _

/-! ### The frame of a written value -/

theorem accepted_iff {raw : List Byte} : accepted raw = true ↔ ∃ tail, raw = TAG_OK :: tail := by
  cases raw <;> simp [accepted]

/-! ### The constants of R8 in the quantities computed from them -/

/-- The numerator over 255 is the document's formula `(raw / 127.5) - 1`, off the centre (R144). -/
theorem axisNum_formula {r : Byte} (h : r ≠ AXIS_CENTER) :
    (axisNum r : ℚ) / AXIS_DIVISOR.1 = (r.toNat : ℚ) / (AXIS_DIVISOR.1 / AXIS_DIVISOR.2) - 1 := by
  simp only [axisNum, if_neg h, AXIS_DIVISOR]
  push_cast
  ring

theorem hexDigit_hexByte : ∀ d : Fin 16, hexDigit (hexByte d) = some d.val := by decide

/-- The parser reads back the colour whose string it is given (R162, R167). -/
theorem parseColor_colorString (c : BitVec 24) : parseColor (colorString c) = c := by
  have h k : hexDigit (hexByte (c.toNat / 16 ^ k % 16)) = some (c.toNat / 16 ^ k % 16) :=
    hexDigit_hexByte ⟨_, Nat.mod_lt _ (by decide)⟩
  have hx : ¬ hexByte (c.toNat / 16 ^ 4 % 16) = 0x78 := fun e => by
    have := h 4
    rw [e] at this
    exact absurd this (by simp [hexDigit])
  have hlt := c.isLt
  simp only [colorString, List.map_cons, List.map_nil, parseColor, stripHexMark, hx, and_false, if_false, hexValue, h]
  apply BitVec.eq_of_toNat_eq
  simp only [BitVec.toNat_ofNat]
  omega

/-- A telemetry frame has TLM_LEN bytes, whatever the label and the colour string (R161). -/
theorem buildFrame_length (label color : List Byte) : (buildFrame label color).length = TLM_LEN := by
  simp [buildFrame, labelBytes, colorBytes, LABEL_LEN, TLM_LEN]

/-! ### Decoding the presented command -/

theorem decodeOn_eq_ok {c : Config} {p : Port} {bytes : List Byte} {i : Instr} :
    decodeOn c p bytes = .ok i ↔ decode c bytes = .ok i ∧ i.port = p := by
  unfold decodeOn
  cases decode c bytes with
  | error why => simp
  | ok j =>
    by_cases h : j.port = p
    · simp only [h, if_true, Except.ok.injEq]
      exact ⟨fun e => ⟨e, e ▸ h⟩, fun e => e.1⟩
    · simp only [h, if_false, Except.ok.injEq, reduceCtorEq, false_iff, not_and]
      rintro rfl; exact h

/-! ### The rate-limited send -/

/-- An admitted send is suppressed and changes nothing, or it notifies and records its time. -/
theorem trySend_cases (label color : List Byte) (now : Nat) (s : State) :
    (s.suppressed now = true ∧ trySend label color now s = complete .pPort (.bool false) s) ∨
    (s.suppressed now = false ∧
      trySend label color now s =
        complete .pPort (.bool true) ((s.notifyAll (buildFrame label color)).recordSend now)) := by
  unfold trySend
  cases h : s.suppressed now <;> simp

theorem sendTelemetry_eq_next {label color : List Byte} {now : Nat} {s t : State} :
    sendTelemetry label color now s = .next t ↔ asciiLabel label = true ∧ trySend label color now s = .next t := by
  unfold sendTelemetry
  cases asciiLabel label <;> simp

/-! ### The construction sequence -/

/-- The four ends of the construction sequence, one per answer of the radio. -/
theorem construct_eq (rstat : RStat) (p : List Byte) (s : State) :
    construct rstat p s =
      match rstat with
      | .activationFailed => raiseInitError .activate (s.emits [.radioActivate])
      | .registrationFailed =>
          raiseInitError .register ((s.emits [.radioActivate]).emits [.irqRegister, gattRegistration s.cfg])
      | .advertiseFailed =>
          raiseInitError .advertise
            (((s.emits [.radioActivate]).emits [.irqRegister, gattRegistration s.cfg]).emits [.advertise p])
      | .allSucceeded =>
          complete .pPort .done
            ((((s.emits [.radioActivate]).emits [.irqRegister, gattRegistration s.cfg]).emits
              [.advertise p]).loadPayload p) := by
  cases rstat <;> rfl

theorem completeDecoding_eq_next {r : Result} {s t : State} :
    completeDecoding r s = .next t ↔ typeCodesDistinct s.cfg = true ∧ t = s.respond .pPort (.ok r) := by
  unfold completeDecoding
  cases typeCodesDistinct s.cfg <;> simp [complete_eq_next]

end Sys2Proof.Machine
end

