-- ==== Sys2Proof/Laws/PerInstr.lean ====
section
/-! SUPPORT. A family of facts made per instruction: an instruction's command begins with its row's operation byte, and
the operation map gives the row back (spec/30_encoding.md R82). -/

namespace Sys2Proof.Laws.OperationByte

/-- The command of `i` begins with its operation byte, which the decoder's map reads as `i`'s operation. -/
def Statement (i : Instr) : Prop := ∀ c, ∃ b, (encode c i).head? = some b ∧ Op.ofByte b = some i.op

theorem of_op (i : Instr) : Statement i := fun _ => ⟨i.op.byte, rfl, Op.ofByte_byte i.op⟩

theorem evConn (h : Nat) : Statement (.evConn h) := of_op _
theorem evDisc (h : Nat) : Statement (.evDisc h) := of_op _
theorem evWrite (h : Nat) (c : CharSel) (v : List Byte) : Statement (.evWrite h c v) := of_op _
theorem cfWrite (raw : List Byte) : Statement (.cfWrite raw) := of_op _
theorem lnkIsconn : Statement .lnkIsconn := of_op _
theorem lnkSend (bytes : List Byte) : Statement (.lnkSend bytes) := of_op _
theorem cfRawaxis (idx : Byte) : Statement (.cfRawaxis idx) := of_op _
theorem cfAxis (idx : Byte) : Statement (.cfAxis idx) := of_op _
theorem cfButton (n : Byte) : Statement (.cfButton n) := of_op _
theorem cfServo : Statement .cfServo := of_op _
theorem tmBuild (label : List Byte) (color : List Byte) : Statement (.tmBuild label color) := of_op _
theorem tmTrysend (label : List Byte) (color : List Byte) (now : Nat) : Statement (.tmTrysend label color now) := of_op _
theorem tmBatt (mv : Millivolts) (now : Nat) : Statement (.tmBatt mv now) := of_op _
theorem advEnc (flags : Byte) (name : Option (List Byte)) (uuids : List (List Byte)) (app : Option (BitVec 16)) : Statement (.advEnc flags name uuids app) := of_op _
theorem advDecf (code : Byte) (payload : List Byte) : Statement (.advDecf code payload) := of_op _
theorem advDecn (payload : List Byte) : Statement (.advDecn payload) := of_op _
theorem advDecs (payload : List Byte) : Statement (.advDecs payload) := of_op _
theorem agInit (rstat : RStat) (name : List Byte) : Statement (.agInit rstat name) := of_op _
theorem agIsconn : Statement .agIsconn := of_op _
theorem agGetaxis (idx : Byte) : Statement (.agGetaxis idx) := of_op _
theorem agGetbtn (n : Byte) : Statement (.agGetbtn n) := of_op _
theorem agGetservo : Statement .agGetservo := of_op _
theorem agBatt (mv : Millivolts) (now : Nat) : Statement (.agBatt mv now) := of_op _

end Sys2Proof.Laws.OperationByte
end

