-- ==== Sys2Proof/Tests/Slice0.lean ====
section
/-! SUPPORT. Tests: commands written out from spec/30_encoding.md and spec/95_test_vectors.md, the ill-formed terms the
checks refuse, one step of each operation against the published vectors, and a witness for every statement's hypotheses.
A name in brackets is the vector's in spec/95_test_vectors.md. -/

namespace Sys2Proof.Tests

open Sys2Proof Sys2Proof.Machine Sys2Proof.Claims

/-! ### Small states -/

/-- SVC, the example UUID of the vectors. -/
def svc : List Byte :=
  [0x9E, 0xCA, 0xDC, 0x24, 0x0E, 0xE5, 0xA9, 0xE0, 0x93, 0xF3, 0xA3, 0xB5, 0x01, 0x00, 0x40, 0x6E]

/-- The example configuration of the vectors: the defaults and the example UUIDs. -/
def cfg : Config :=
  { Config.default with
    svcUuid := #v[0x9E, 0xCA, 0xDC, 0x24, 0x0E, 0xE5, 0xA9, 0xE0, 0x93, 0xF3, 0xA3, 0xB5, 0x01, 0x00, 0x40, 0x6E]
    txUuid := #v[0x9E, 0xCA, 0xDC, 0x24, 0x0E, 0xE5, 0xA9, 0xE0, 0x93, 0xF3, 0xA3, 0xB5, 0x03, 0x00, 0x40, 0x6E]
    rxUuid := #v[0x9E, 0xCA, 0xDC, 0x24, 0x0E, 0xE5, 0xA9, 0xE0, 0x93, 0xF3, 0xA3, 0xB5, 0x02, 0x00, 0x40, 0x6E] }

/-- P31, the payload built for the name "XRP-BT01". -/
def p31 : List Byte := [0x02, 0x01, 0x06, 0x09, 0x09] ++ ascii "XRP-BT01" ++ [0x11, 0x07] ++ svc

/-- The reset state under the example configuration. -/
def start : State := State.resetWith cfg

/-- A configuration whose type codes are not distinct. -/
def badCfg : Config := { cfg with tName := 0x01 }

/-- The frame of V42-2: axis 1 at 200, buttons 0 and 15, servo 90. -/
def frame2 : List Byte := [0x01, 0x7F, 0xC8, 0x7F, 0x7F, 0x01, 0x80, 0x5A] ++ List.replicate 12 0

/-- The state an operation leads to; the state itself when it leads to none. -/
def after (i : Instr) (s : State) : State :=
  match exec i s with
  | .next t => t
  | .fault _ => s
  | .refused _ => s

/-- The bytes of the last response (R84). -/
def response (s : State) : Option (List Byte) := (s.answers.getLast?).bind fun a => a.2.bytes s.cfg.axisRepr

/-- The bytes of the output events (R86). -/
def events (s : State) : List (List Byte) := s.oport.map (OutEvent.bytes s.cfg.handleW)

/-! ### Decoding: one word of every operation (R82, R83; part 3 of the vectors) -/

theorem test_decode_evConn : decode cfg [0x01, 0x40, 0x00] = .ok (.evConn 0x40) := by decide
theorem test_decode_evDisc : decode cfg [0x02, 0x41, 0x02] = .ok (.evDisc 0x0241) := by decide
theorem test_decode_evWrite :
    decode cfg [0x03, 0x40, 0x00, 0x01, 0x03, 0x01, 0x10, 0x20] = .ok (.evWrite 0x40 .rx [0x01, 0x10, 0x20]) := by decide
theorem test_decode_evWrite_other :
    decode cfg [0x03, 0x40, 0x00, 0x07, 0x01, 0x00] = .ok (.evWrite 0x40 (.other 7) [0x00]) := by decide
theorem test_decode_cfWrite :
    decode cfg [0x04, 0x08, 0x01, 0x00, 0xFF, 0x7F, 0x7F, 0x00, 0x00, 0xC8] =
      .ok (.cfWrite [0x01, 0x00, 0xFF, 0x7F, 0x7F, 0x00, 0x00, 0xC8]) := by decide
theorem test_decode_lnkIsconn : decode cfg [0x10] = .ok .lnkIsconn := by decide
theorem test_decode_lnkSend : decode cfg [0x11, 0x02, 0x41, 0x42] = .ok (.lnkSend [0x41, 0x42]) := by decide
theorem test_decode_cfRawaxis : decode cfg [0x20, 0x01] = .ok (.cfRawaxis 1) := by decide
theorem test_decode_cfAxis : decode cfg [0x21, 0x03] = .ok (.cfAxis 3) := by decide
theorem test_decode_cfButton : decode cfg [0x22, 0x0F] = .ok (.cfButton 15) := by decide
theorem test_decode_cfServo : decode cfg [0x23] = .ok .cfServo := by decide
theorem test_decode_tmBuild :
    decode cfg [0x30, 0x06, 0x37, 0x2E, 0x38, 0x32, 0x20, 0x56, 0x06, 0x30, 0x30, 0x46, 0x46, 0x30, 0x30] =
      .ok (.tmBuild (ascii "7.82 V") (ascii "00FF00")) := by decide
theorem test_decode_tmTrysend :
    decode cfg [0x31, 0x05, 0x48, 0x45, 0x4C, 0x4C, 0x4F, 0x08, 0x30, 0x78, 0x30, 0x30, 0x30, 0x30, 0x46, 0x46,
      0xF3, 0x01, 0x00, 0x00] = .ok (.tmTrysend (ascii "HELLO") (ascii "0x0000FF") 499) := by decide
theorem test_decode_tmBatt : decode cfg [0x32, 0x8C, 0x1E, 0x64, 0x00, 0x00, 0x00] = .ok (.tmBatt 7820 100) := by decide
theorem test_decode_advEnc :
    decode cfg [0x40, 0x03, 0x06, 0x03, 0x58, 0x52, 0x50, 0x01, 0x02, 0x0F, 0x18, 0xC1, 0x03] =
      .ok (.advEnc 0x06 (some (ascii "XRP")) [[0x0F, 0x18]] (some 0x03C1)) := by decide
theorem test_decode_advEnc_absent :
    decode cfg [0x40, 0x00, 0x06, 0x00, 0x00, 0xC1, 0x03] = .ok (.advEnc 0x06 none [] none) := by decide
theorem test_decode_advDecf :
    decode cfg [0x41, 0x01, 0x03, 0x02, 0x01, 0x06] = .ok (.advDecf 0x01 [0x02, 0x01, 0x06]) := by decide
theorem test_decode_advDecn : decode cfg [0x42, 0x02, 0x01, 0x09] = .ok (.advDecn [0x01, 0x09]) := by decide
theorem test_decode_advDecs : decode cfg [0x43, 0x00] = .ok (.advDecs []) := by decide
theorem test_decode_agInit :
    decode cfg [0x50, 0x02, 0x08, 0x58, 0x52, 0x50, 0x2D, 0x42, 0x54, 0x30, 0x31] =
      .ok (.agInit .registrationFailed (ascii "XRP-BT01")) := by decide
theorem test_decode_agIsconn : decode cfg [0x51] = .ok .agIsconn := by decide
theorem test_decode_agGetaxis : decode cfg [0x52, 0x01] = .ok (.agGetaxis 1) := by decide
theorem test_decode_agGetbtn : decode cfg [0x53, 0x0F] = .ok (.agGetbtn 15) := by decide
theorem test_decode_agGetservo : decode cfg [0x54] = .ok .agGetservo := by decide
theorem test_decode_agBatt : decode cfg [0x55, 0x20, 0x1C, 0xF4, 0x01, 0x00, 0x00] = .ok (.agBatt 7200 500) := by decide

/-! ### Rejections by name (R87, R88; log entries 1 and 12) -/

theorem test_reject_reserved : decode cfg [0x05] = .error (.reservedOp 0x05) := by decide
theorem test_reject_nothing : decode cfg [] = .error .noBytes := by decide
theorem test_reject_truncated : decode cfg [0x01, 0x40] = .error .truncated := by decide
theorem test_reject_trailing : decode cfg [0x10, 0x00] = .error .trailing := by decide
theorem test_reject_above_rxMax : decode cfg [0x03, 0x40, 0x00, 0x01, 0x15] = .error .aboveRxMax := by decide
theorem test_reject_present : decode cfg [0x40, 0x04, 0x06, 0x00, 0x00, 0x00, 0x00] = .error .reservedPresent := by decide
theorem test_reject_name :
    decode cfg [0x40, 0x02, 0x06, 0x01, 0x41, 0x00, 0x00, 0x00] = .error .nameNotPresent := by decide
theorem test_reject_uuid_width :
    decode cfg [0x40, 0x00, 0x06, 0x00, 0x01, 0x03, 0x01, 0x02, 0x03, 0x00, 0x00] = .error (.uuidWidth 3) := by decide
theorem test_reject_rstat : decode cfg [0x50, 0x04, 0x00] = .error .rstatAbove3 := by decide
theorem test_reject_wrong_port : decodeOn cfg .ePort [0x10] = .error .wrongPort := by decide
theorem test_reject_width : decode { cfg with handleW := 9 } [0x01, 0x00, 0x02] = .error .aboveWidth := by decide
theorem test_reject_width_now :
    decode { cfg with tsW := 10 } [0x32, 0x00, 0x00, 0x00, 0x04] = .error .aboveWidth := by decide

/-- R81: a handle takes `ceil(HANDLE_W / 8)` bytes. -/
theorem test_decode_wide_handle :
    decode { cfg with handleW := 17 } [0x01, 0x00, 0x00, 0x01] = .ok (.evConn 0x10000) := by decide

/-! ### What the checks of WellFormed refuse -/

theorem test_wf_sel_tx : (Instr.evWrite 0 (.other 0) []).wf cfg = false := by decide
theorem test_wf_sel_rx : (Instr.evWrite 0 (.other 1) []).wf cfg = false := by decide
theorem test_wf_sel_two : (Instr.evWrite 0 (.other 2) []).wf cfg = true := by decide
theorem test_wf_rxMax : (Instr.evWrite 0 .rx (List.replicate 21 0)).wf cfg = false := by decide
theorem test_wf_handle : (Instr.evConn 0x10000).wf cfg = false := by decide
theorem test_wf_handle_disc : (Instr.evDisc 0x10000).wf cfg = false := by decide
theorem test_wf_handle_write : (Instr.evWrite 0x10000 .rx []).wf cfg = false := by decide
theorem test_wf_now : (Instr.tmTrysend [] [] 0x100000000).wf cfg = false := by decide
theorem test_wf_now_batt : (Instr.tmBatt 0 0x100000000).wf cfg = false := by decide
theorem test_wf_now_agBatt : (Instr.agBatt 0 0x100000000).wf cfg = false := by decide
/-- A list too long for its length byte, for the tests below. -/
theorem test_long_list : 255 < (List.replicate 256 (0 : Byte)).length := by rw [List.length_replicate]; decide
theorem test_wf_write_len (l : List Byte) (h : 255 < l.length) : (Instr.cfWrite l).wf cfg = false := by
  simp [Instr.wf, fitsLenByte, h]
theorem test_wf_send_len (l : List Byte) (h : 255 < l.length) : (Instr.lnkSend l).wf cfg = false := by
  simp [Instr.wf, fitsLenByte, h]
theorem test_wf_label_len (l : List Byte) (h : 255 < l.length) : (Instr.tmBuild l []).wf cfg = false := by
  simp [Instr.wf, fitsLenByte, h]
theorem test_wf_colour_len (l : List Byte) (h : 255 < l.length) : (Instr.tmTrysend [] l 0).wf cfg = false := by
  simp [Instr.wf, fitsLenByte, h]
theorem test_wf_payload_len (l : List Byte) (h : 255 < l.length) : (Instr.advDecf 0 l).wf cfg = false := by
  simp [Instr.wf, fitsLenByte, h]
theorem test_wf_decn_len (l : List Byte) (h : 255 < l.length) : (Instr.advDecn l).wf cfg = false := by
  simp [Instr.wf, fitsLenByte, h]
theorem test_wf_decs_len (l : List Byte) (h : 255 < l.length) : (Instr.advDecs l).wf cfg = false := by
  simp [Instr.wf, fitsLenByte, h]
theorem test_wf_init_len (l : List Byte) (h : 255 < l.length) : (Instr.agInit .allSucceeded l).wf cfg = false := by
  simp [Instr.wf, fitsLenByte, h]
theorem test_wf_name_len (l : List Byte) (h : 255 < l.length) : (Instr.advEnc 0 (some l) [] none).wf cfg = false := by
  simp [Instr.wf, fitsLenByte, h]
theorem test_wf_uuid_width : (Instr.advEnc 0 none [[0, 0, 0]] none).wf cfg = false := by decide
theorem test_wf_uuid_count (l : List (List Byte)) (h : 255 < l.length) : (Instr.advEnc 0 none l none).wf cfg = false := by
  simp [Instr.wf, h]
theorem test_cfg_wf : Config.default.wf = true := by decide
theorem test_cfg_handleW : { cfg with handleW := 0 }.wf = false := by decide
theorem test_cfg_tsW : { cfg with tsW := 9 }.wf = false := by decide
theorem test_cfg_rxMax_low : { cfg with rxMax := 19 }.wf = false := by decide
theorem test_cfg_rxMax_high : { cfg with rxMax := 256 }.wf = false := by decide
theorem test_cfg_lastSendReset : { cfg with lastSendReset := some 0x100000000 }.wf = false := by decide
theorem test_cfg_typeCodes : badCfg.wf = false := by decide

/-! ### One step of each operation, against the published vectors -/

/-- [V41-2] -/
theorem test_evConn : (after (.evConn 0x40) { start with conn := [0x40] }).conn = [0x40] := by decide
/-- [V41-4] -/
theorem test_evDisc :
    (after (.evDisc 0x40) { start with conn := [0x40, 0x41], advp := p31 }).conn = [0x41] ∧
    events (after (.evDisc 0x40) { start with conn := [0x40, 0x41], advp := p31 }) = [0x83 :: 0x1F :: p31] := by decide
/-- [V41-6] -/
theorem test_evWrite_rx : (after (.evWrite 0x99 .rx frame2) start).frame = frame2 := by decide
/-- [V41-10] -/
theorem test_evWrite_other : (after (.evWrite 0x40 (.other 7) [0]) { start with frame := frame2 }).frame = frame2 := by
  decide
/-- [V42-12] -/
theorem test_cfWrite_long :
    (after (.cfWrite [0x01, 0x11, 0x12, 0x13, 0x14, 0x15, 0x16, 0x17, 0x18, 0x19, 0x1A, 0x1B, 0x1C, 0x1D, 0x1E, 0x1F,
      0x20, 0x21, 0x22, 0x23, 0x24, 0x25]) start).frame.drop 18 = [0x22, 0x23] := by decide
/-- [V42-10] -/
theorem test_cfWrite_empty : (after (.cfWrite []) { start with frame := frame2 }).frame = neutral := by decide
/-- [V41-1] -/
theorem test_lnkIsconn : response (after .lnkIsconn { start with conn := [0x40] }) = some [0x00, 0x01] := by decide
/-- [V41-9] -/
theorem test_lnkSend : events (after (.lnkSend []) { start with conn := [0x40] }) = [[0x84, 0x40, 0x00, 0x00]] := by decide
/-- [V42-2] -/
theorem test_cfRawaxis : response (after (.cfRawaxis 1) { start with frame := frame2 }) = some [0x00, 0xC8] := by decide
/-- [V42-4] -/
theorem test_cfRawaxis_out : response (after (.cfRawaxis 4) { start with frame := frame2 }) = some [0x00, 0x7F] := by decide
/-- [V42-3] -/
theorem test_cfAxis : response (after (.cfAxis 3) { start with frame := [0x01, 0, 0xFF, 0x80, 0x7E] }) =
    some [0x00, 0xFD, 0xFF] := by decide
/-- [V42-15] -/
theorem test_cfAxis_low : response (after (.cfAxis 0) { start with frame := [0x01, 0x00] }) = some [0x00, 0x01, 0xFF] := by
  decide
/-- [V42-14]: the mask 0xA5C3, whose bit 13 is 1. -/
theorem test_cfButton :
    response (after (.cfButton 13) { start with frame := [0x01, 0, 0, 0, 0, 0xC3, 0xA5] }) = some [0x00, 0x01] := by decide
/-- [V42-7]: byte 6 missing. -/
theorem test_cfButton_missing :
    response (after (.cfButton 8) { start with frame := [0x01, 0x10, 0x20, 0x30, 0x40, 0xFF] }) = some [0x00, 0x00] := by
  decide
/-- [V42-6] -/
theorem test_cfServo :
    response (after .cfServo { start with frame := [0x01, 0, 0xFF, 0x7F, 0x7F, 0, 0, 0xC8] }) = some [0x00, 0xB4] := by decide
/-- [V42-1] -/
theorem test_cfServo_reset : response (after .cfServo start) = some [0x00, 0x5A] := by decide
/-- [V43-6] -/
theorem test_tmBuild :
    response (after (.tmBuild [0x41, 0x00, 0x42] (ascii "1234567")) start) =
      some [0x00, 0x41, 0x00, 0x42, 0, 0, 0, 0, 0, 0x23, 0x45, 0x67] := by decide
/-- [V43-4] -/
theorem test_tmBuild_long :
    response (after (.tmBuild (ascii "ABCDEFGHIJ") (ascii "F")) start) =
      some (0x00 :: ascii "ABCDEFGH" ++ [0x00, 0x00, 0x0F]) := by decide
/-- [V43-10]: 1500 is LAST_SEND + 500 and sends. -/
theorem test_tmTrysend_sends :
    (after (.tmTrysend (ascii "A") (ascii "0") 1500) { start with conn := [0x40], lastSend := 1000, lsValid := true }).oport =
      [.notify 0x40 [0x41, 0, 0, 0, 0, 0, 0, 0, 0, 0, 0]] := by decide
/-- [V43-14]: no wrap. -/
theorem test_tmTrysend_no_wrap :
    response (after (.tmTrysend [] [] 4294967295) { start with lastSend := 4294967040, lsValid := true }) =
      some [0x00, 0x00] := by decide
/-- [V43-24]: the label is rounded, the colour is by the exact voltage. -/
theorem test_tmBatt :
    (after (.tmBatt 7599 0) { start with conn := [0x40] }).oport =
      [.notify 0x40 (ascii "7.60 V" ++ [0x00, 0x00, 0xFF, 0xFF, 0x00])] := by decide
/-- [V43-32]: a tie carries into a seventh character. -/
theorem test_tmBatt_tie :
    (after (.tmBatt 9995 0) { start with conn := [0x40] }).oport =
      [.notify 0x40 (ascii "10.00 V" ++ [0x00, 0x00, 0xFF, 0x00])] := by decide
/-- [V40-6] -/
theorem test_advEnc :
    response (after (.advEnc 0x06 none [[0x0F, 0x18], svc, [0x0A, 0x18]] none) start) =
      some ([0x00, 0x1D, 0x02, 0x01, 0x06, 0x03, 0x03, 0x0F, 0x18, 0x11, 0x07] ++ svc ++ [0x03, 0x03, 0x0A, 0x18]) := by
  decide
/-- [V40-4] -/
theorem test_advEnc_appearance :
    response (after (.advEnc 0x06 none [[0x0F, 0x18]] (some 0x03C1)) start) =
      some [0x00, 0x0B, 0x02, 0x01, 0x06, 0x03, 0x03, 0x0F, 0x18, 0x03, 0x19, 0xC1, 0x03] := by decide
/-- [V40-12] -/
theorem test_advDecf :
    response (after (.advDecf 0x09 [0x02, 0x01, 0x06, 0x00, 0x04, 0x09, 0x58, 0x52, 0x50]) start) = some [0x00, 0x00] := by
  decide
/-- [V40-13] -/
theorem test_advDecf_empty_value :
    response (after (.advDecf 0x09 [0x01, 0x09, 0x02, 0x09, 0x41]) start) = some [0x00, 0x02, 0x00, 0x01, 0x41] := by decide
/-- [V40-18] -/
theorem test_advDecn : response (after (.advDecn [0x02, 0x09, 0x41, 0x02, 0x09, 0x42]) start) =
    some [0x00, 0x01, 0x41] := by decide
/-- [V40-21] -/
theorem test_advDecs :
    response (after (.advDecs ([0x11, 0x07] ++ svc ++ [0x03, 0x03, 0x0F, 0x18])) start) =
      some ([0x00, 0x02, 0x02, 0x0F, 0x18, 0x10] ++ svc) := by decide
/-- [V40-23] -/
theorem test_advDecs_odd : response (after (.advDecs [0x04, 0x03, 0x0F, 0x18, 0x0A]) start) =
    some [0x00, 0x01, 0x02, 0x0F, 0x18] := by decide
/-- [V44-1] -/
theorem test_agInit :
    (after (.agInit .allSucceeded (ascii "XRP-BT01")) start).advp = p31 ∧
    (events (after (.agInit .allSucceeded (ascii "XRP-BT01")) start)).map List.length = [1, 1, 51, 33] := by decide
/-- [V44-4] -/
theorem test_agInit_advertise_failed :
    (after (.agInit .advertiseFailed (ascii "XRP-BT01")) start).advp = [] ∧
    response (after (.agInit .advertiseFailed (ascii "XRP-BT01")) start) = some [0x01] := by decide
/-- [V44-12] -/
theorem test_agIsconn : response (after .agIsconn start) = some [0x00, 0x00] := by decide
/-- Program P1, line 5. -/
theorem test_agGetaxis : response (after (.agGetaxis 1) { start with frame := frame2 }) = some [0x00, 0x91, 0x00] := by decide
/-- Program P1, line 7. -/
theorem test_agGetbtn : response (after (.agGetbtn 15) { start with frame := frame2 }) = some [0x00, 0x01] := by decide
/-- Program P1: the servo after an unaccepted write. -/
theorem test_agGetservo : response (after .agGetservo { start with frame := neutral }) = some [0x00, 0x00] := by decide
/-- [V44-11] -/
theorem test_agBatt :
    events (after (.agBatt 7820 0) { start with conn := [0x40] }) =
      [[0x84, 0x40, 0x00, 0x0B, 0x37, 0x2E, 0x38, 0x32, 0x20, 0x56, 0x00, 0x00, 0x00, 0xFF, 0x00]] := by decide

/-! ### The named constants (R8) -/

/-- The colours of R8 are the strings R167 hands to the parser. -/
theorem test_colours :
    colorString COLOR_GREEN = ascii "00FF00" ∧ colorString COLOR_YELLOW = ascii "FFFF00" ∧
    colorString COLOR_RED = ascii "FF0000" := by decide
/-- [V42-15] the values at 0, 200 and 255. -/
theorem test_axis_numerators : axisNum 0 = -255 ∧ axisNum 200 = 145 ∧ axisNum 255 = 255 := by decide
/-- "With `n = 8` that is 31 bytes, exactly ADV_LIMIT" (R79): the built payload of a name of NAME_MAX bytes. -/
theorem test_advLimit :
    (ascii "XRP-BT01").length = NAME_MAX ∧
    (after (.agInit .allSucceeded (ascii "XRP-BT01")) start).advp.length = ADV_LIMIT ∧ ADV_LIMIT ≤ ADV_CAP := by decide

/-! ### Refusals (R193) -/

theorem test_refuse_constructed : exec (.agInit .allSucceeded []) { start with initd := true } = .refused .alreadyConstructed := rfl
/-- [V44-7] -/
theorem test_refuse_payload : exec (.agInit .allSucceeded (ascii "XRP-BT012")) start = .refused .payloadTooLong := by rfl
/-- [V40-8] -/
theorem test_refuse_uuid : exec (.advEnc 0x06 none [[1, 2, 3]] none) start = .refused .badUuidWidth := by rfl
/-- [V43-7] -/
theorem test_refuse_label : exec (.tmBuild [0xC3, 0xA9] (ascii "00FF00")) start = .refused .nonAsciiLabel := by rfl

/-! ### The step and the table words -/

/-- Every row of the operation map, as the table's one-byte word, decodes to the row's operation. -/
theorem test_table_words : Op.all.map (fun o => (decodeTableWord 8 o.byte.toNat).map Instr.op) = Op.all.map some := by decide

/-- The step after `withFetchWord` runs the operation on either port. -/
theorem test_fetch_runs (o : Op) :
    ∃ i, decodeTableWord 8 o.byte.toNat = some i ∧
      step (State.reset.withFetchWord 8 o.byte.toNat) = exec i { State.reset with turn := o.port } := by
  cases o <;> exact ⟨_, rfl, rfl⟩
/-- AG.INIT with an empty name is the first operation after reset (V44-8): the payload is 23 bytes. -/
theorem test_fetch_agInit :
    ∃ t, step (State.reset.withFetchWord 8 0x50) = .next t ∧ t.initd = true ∧ t.advp.length = 23 := ⟨_, rfl, rfl, rfl⟩

/-! ### Witnesses: concrete inputs that meet the hypotheses of each statement -/

/-- Both ports have a command waiting, and it is the P-port's turn. -/
def waiting : State := { start with eport := [[0x01, 0x40, 0x00]], pport := [[0x10]], turn := .pPort }

/-- A state some way into a run: constructed, one central, an accepted frame, a send recorded. -/
def busy : State :=
  { start with frame := frame2, conn := [0x40], lastSend := 1000, lsValid := true, advp := p31, initd := true }

theorem witness_DecodeOfEncodeIsTheInstruction :
    (Instr.evWrite 0xFFFF (.other 255) (List.replicate 20 0xFF)).wf Config.default = true := by decide
theorem witness_EncodeOfDecodeIsTheCommand :
    decode cfg [0x40, 0x00, 0x06, 0x00, 0x00, 0xC1, 0x03] = .ok (.advEnc 0x06 none [] none) ∧
    decode cfg [0x20, 0xFF] = .ok (.cfRawaxis 0xFF) := by decide
theorem witness_ReservedBytesSpellNoOperation : reservedByte 0x0F ∧ ¬ reservedByte 0x10 := by
  unfold reservedByte; decide
theorem witness_CutOrOverlongCommandsAreInvalid :
    (Instr.evConn 0x40).wf cfg = true ∧ 0 < 2 ∧ 2 < (encode cfg (.evConn 0x40)).length := by decide
theorem witness_ReservedFieldValuesAreInvalid :
    (([0xFF, 0xFF] : List Byte).length = (cfg.handleW + 7) / 8 ∧ leValue [0xFF, 0xFF] < 2 ^ cfg.handleW ∧
      cfg.rxMax < (21 : Byte).toNat) ∧
    (([0x00, 0x02] : List Byte).length = (9 + 7) / 8 ∧ 2 ^ 9 ≤ leValue [0x00, 0x02]) ∧
    (([0x00, 0x04] : List Byte).length = (10 + 7) / 8 ∧ 2 ^ 10 ≤ leValue [0x00, 0x04] ∧ (ascii "A").length ≤ 255) ∧
    4 ≤ (4 : Byte).toNat ∧ (1 : Byte) ≠ 0 ∧
    ((3 : Byte).toNat < 4 ∧ ((3 : Byte).toNat % 2 = 0 → ([0x41] : List Byte) = []) ∧
      (∀ u ∈ [svc, [0x0F, 0x18]], WidthOk u) ∧ [svc, [0x0F, 0x18]].length < (3 : Byte).toNat ∧ (3 : Byte).toNat ≠ 2) ∧
    3 < (4 : Byte).toNat := by unfold WidthOk; decide
theorem witness_ResponseBytes : (-255 : Int) ≤ -255 ∧ (-255 : Int) ≤ 255 ∧ (ascii "XRP").length ≤ 255 := by decide
theorem witness_OutputEventBytes : 0x40 < 2 ^ cfg.handleW ∧ p31.length ≤ 255 := by decide
theorem witness_StepRunsTheDecodedOperation :
    Serves { start with eport := [[0x01, 0x40, 0x00]] } .ePort [0x01, 0x40, 0x00] start ∧
    Serves waiting .pPort [0x10] { waiting with pport := [], turn := Config.arbiterPick 0, free := 1 } ∧
    decode cfg [0x01, 0x40, 0x00] = .ok (.evConn 0x40) ∧ decode cfg [0x10] = .ok .lnkIsconn ∧
    Instr.lnkIsconn.port = .pPort ∧ start.eport = [] ∧ start.pport = [] :=
  ⟨⟨[], rfl, .inl ⟨rfl, rfl⟩⟩, ⟨[], rfl, .inr ⟨by decide, rfl, rfl⟩⟩, by decide, by decide, rfl, rfl, rfl⟩
theorem witness_InvalidCommandsChangeNothing :
    Serves { start with eport := [[0x10]] } .ePort [0x10] start ∧ decode cfg [0x10] = .ok .lnkIsconn ∧
    Instr.lnkIsconn.port ≠ .ePort ∧ Serves { start with pport := [[0x05]] } .pPort [0x05] start ∧
    decode cfg [0x05] = .error (.reservedOp 0x05) :=
  ⟨⟨[], rfl, .inl ⟨rfl, rfl⟩⟩, by decide, by decide, ⟨[], rfl, .inl ⟨rfl, rfl⟩⟩, by decide⟩
theorem witness_PortsKeepTheirOwnOrder :
    (∃ t, step waiting = .next t) ∧ waiting.eport = [[0x01, 0x40, 0x00]] ∧ waiting.pport = [[0x10]] ∧
    (∃ t, step { waiting with turn := .ePort } = .next t) := ⟨⟨_, rfl⟩, rfl, rfl, ⟨_, rfl⟩⟩
theorem witness_OutputsOnlyGrowAndConfigurationIsFixed : ∃ t, step waiting = .next t := ⟨_, rfl⟩
theorem witness_EventsAreAlwaysPerformed :
    Serves { start with eport := [[0x02, 0x07, 0x00]] } .ePort [0x02, 0x07, 0x00] start := ⟨[], rfl, .inl ⟨rfl, rfl⟩⟩
theorem witness_RegistersHaveOnlyTheirWriters :
    (∃ t, exec (.cfWrite [1, 2]) start = .next t ∧ t.frame ≠ start.frame) ∧
    (∃ t, exec (.evConn 7) start = .next t ∧ t.conn ≠ start.conn) ∧
    (∃ t, exec (.tmBatt 7000 5) start = .next t ∧ t.lastSend ≠ start.lastSend) ∧
    (∃ t, exec (.agInit .allSucceeded []) start = .next t ∧ t.initd ≠ start.initd) :=
  ⟨⟨_, rfl, by decide⟩, ⟨_, rfl, by decide⟩, ⟨_, rfl, by decide⟩, ⟨_, rfl, by decide⟩⟩
theorem witness_OutputEventsHaveOnlyTheirSources : ∃ t, exec (.evDisc 7) start = .next t ∧ t.oport ≠ [] :=
  ⟨_, rfl, by decide⟩
theorem witness_AccessorsChangeNothing :
    ∃ t, exec (.agGetbtn 15) busy = .next t ∧ (Instr.agGetbtn 15).op = .agGetbtn := ⟨_, rfl, rfl⟩
theorem witness_CodecOperationsArePure :
    ∃ t, exec (.advDecn p31) start = .next t ∧ busy.cfg = start.cfg ∧ busy ≠ start := ⟨_, rfl, rfl, by decide⟩
theorem witness_FrameAndConnectionSetAreIndependent :
    (∃ t, exec (.evDisc 0x40) busy = .next t ∧ t.conn ≠ busy.conn) ∧
    (∃ t, exec (.cfWrite []) busy = .next t ∧ t.frame ≠ busy.frame) := ⟨⟨_, rfl, by decide⟩, ⟨_, rfl, by decide⟩⟩
theorem witness_StepKeepsTheStateLegal :
    { busy with pport := [[0x54]] }.legal = true ∧ ∃ t, step { busy with pport := [[0x54]] } = .next t :=
  ⟨by decide, _, rfl⟩
theorem witness_ResetIsLegal : { cfg with lastSendReset := some 0xFFFFFFFF }.wf = true := by decide
theorem witness_ResetReadsNeutral : { cfg with lastSendReset := some 0 }.lastSendReset = some 0 ∧ cfg.lastSendReset = none :=
  ⟨rfl, rfl⟩
theorem witness_PayloadIsImmutableOnceBuilt :
    busy.initd = true ∧ ∃ t, Runs { busy with eport := [[0x02, 0x40, 0x00]] } t ∧ t.conn = [] :=
  ⟨rfl, _, .single rfl, rfl⟩
theorem witness_LifecycleMovesOnlyAlongItsEdges :
    ∃ t, exec (.evDisc 0x40) busy = .next t ∧ t.position ≠ busy.position := ⟨_, rfl, by decide⟩
theorem witness_OperationsCompleteExactlyWithinTheirContract :
    OutsideContract (.agInit .allSucceeded (ascii "XRP-BT012")) start ∧
    ¬ OutsideContract (.agInit .allSucceeded (ascii "XRP-BT01")) start := by
  unfold OutsideContract; decide
theorem witness_RefusalReasons :
    busy.initd = true ∧ ¬ badCfg.typeCodes.Nodup ∧ start.initd = false ∧ cfg.typeCodes.Nodup ∧
    8 < (ascii "XRP-BT012").length ∧ (ascii "XRP-BT012").length ≤ 254 ∧
    (∃ u ∈ [([1, 2, 3] : List Byte)], ¬ WidthOk u) ∧ (∀ u ∈ [svc], WidthOk u) ∧
    255 < payloadSize none (List.replicate 14 svc ++ [[0, 0]]) none ∧ (∃ b ∈ ([0x80] : List Byte), 0x80 ≤ b.toNat) ∧
    (∃ name : List Byte, 254 < name.length) := by
  refine ⟨rfl, by decide, rfl, by decide, by decide, by decide, ?_, ?_, by decide, by decide, ⟨List.replicate 255 0, ?_⟩⟩
  · exact ⟨_, List.mem_cons_self, by unfold WidthOk; decide⟩
  · intro u hu; obtain rfl := List.mem_singleton.mp hu; unfold WidthOk; decide
  · rw [List.length_replicate]; decide
theorem witness_ConnectAddsTheHandle : connCanonical busy.conn = true ∧ 0x40 ∈ busy.conn := by decide
theorem witness_DisconnectRemovesTheHandleAndReadvertises : 0x41 ∉ busy.conn := by decide
theorem witness_WriteEventIsRoutedByCharacteristic : CharSel.other 255 ≠ .rx ∧ CharSel.tx ≠ .rx := by decide
theorem witness_FrameWriteAdoptsOrGoesNeutral :
    frame2.head? = some 1 ∧ ([] : List Byte).head? ≠ some 1 ∧ ([2] : List Byte).head? ≠ some 1 := by decide
theorem witness_RawAxisReadsItsByteOrCentre :
    1 + (3 : Byte).toNat < busy.frame.length ∧ (3 : Byte).toNat ≤ 3 ∧ 3 < (4 : Byte).toNat ∧
    ({ start with frame := [1, 2, 3, 4] } : State).frame.length ≤ 1 + (3 : Byte).toNat := by decide
theorem witness_AxisValueIsMonotoneAndOdd :
    exec (.cfRawaxis 1) busy = .next (answered busy .pPort (.raw 200)) ∧
    exec (.cfAxis 1) busy = .next (answered busy .pPort (.axis 145)) ∧
    exec (.cfRawaxis 0) { start with frame := [1, 55] } = .next (answered { start with frame := [1, 55] } .pPort (.raw 55)) ∧
    exec (.cfAxis 0) { start with frame := [1, 55] } = .next (answered { start with frame := [1, 55] } .pPort (.axis (-145))) ∧
    (55 : Byte).toNat < (200 : Byte).toNat ∧ (55 : Byte).toNat + (200 : Byte).toNat = 255 :=
  ⟨rfl, rfl, rfl, rfl, by decide, by decide⟩
theorem witness_ServoIsClampedOrCentred : 7 < busy.frame.length ∧ start.frame.length ≤ 7 := by decide
theorem witness_UnacceptedWriteGoesNeutral : ¬ Accepted [] ∧ ¬ Accepted [0xFF, 1] := by
  constructor <;> rintro ⟨_, h⟩ <;> simp at h
theorem witness_BuildPacksLabelAndColour :
    (∀ b ∈ ([0x00, 0x7F] : List Byte), b.toNat < 0x80) ∧ ∃ b ∈ ([0x00, 0x80] : List Byte), 0x80 ≤ b.toNat := by decide
theorem witness_TrySendSuppressesOrSends :
    (busy.lsValid = true ∧ 1499 < busy.lastSend + 500) ∧ busy.lastSend + 500 ≤ 1500 ∧ start.lsValid = false ∧
    (∀ b ∈ ascii "A", b.toNat < 0x80) ∧ ∃ b ∈ ([0x80] : List Byte), 0x80 ≤ b.toNat := by decide
theorem witness_SendsAreAtLeastFiveHundredApart :
    ∃ t v, SendsAt (.tmBatt 7820 1000) 1000 ∧ SendsAt (.tmTrysend (ascii "A") [] 1500) 1500 ∧
      Sent (.tmBatt 7820 1000) start t ∧ Runs t t ∧ t.lastSend + 500 ≤ 1500 ∧
      exec (.tmTrysend (ascii "A") [] 1500) t = .next v ∧ Sent (.tmTrysend (ascii "A") [] 1500) t v ∧
      ∃ w, exec (.tmTrysend (ascii "A") [] 1499) t = .next w ∧ ¬ Sent (.tmTrysend (ascii "A") [] 1499) t w :=
  ⟨_, _, .inr (.inl ⟨_, rfl⟩), .inl ⟨_, _, rfl⟩, ⟨rfl, rfl⟩, .refl, by decide, rfl, ⟨rfl, rfl⟩, _, rfl,
    fun h => absurd h.2 (by decide)⟩
theorem witness_EncodedPayloadIsItsRecords :
    start.cfg.typeCodes.Nodup ∧ (ascii "XRP-BT01").length ≤ 254 ∧ WidthOk svc ∧
    payloadSize (some (ascii "XRP-BT01")) [svc] none ≤ 255 := by
  unfold WidthOk; decide
theorem witness_DecodeFieldReturnsTheMatchingValues : start.cfg.typeCodes.Nodup := by decide
theorem witness_DecodeNameIsTheFirstNameRecord : Config.default.typeCodes.Nodup := by decide
theorem witness_DecodeServicesCutsEachValueIntoUuids : { cfg with tName := 0xFF }.typeCodes.Nodup := by decide
theorem witness_DecodingAnEncodedPayloadRoundTrips :
    start.cfg.typeCodes.Nodup ∧
    exec (.advEnc 0x06 (some (ascii "XRP-BT01")) [svc] none) start = .next (answered start .pPort (.payload p31)) ∧
    busy.cfg = start.cfg := ⟨by decide, rfl, rfl⟩
theorem witness_ConstructionLoadsThePayload :
    start.initd = false ∧ start.cfg.typeCodes.Nodup ∧ (ascii "XRP-BT01").length ≤ 8 ∧ 8 < (ascii "XRP-BT012").length := by
  decide
theorem witness_FailedConstructionChangesNoRegister :
    start.initd = false ∧ start.cfg.typeCodes.Nodup ∧ ([] : List Byte).length ≤ 8 := by decide

end Sys2Proof.Tests
end

section
/-! What a command the decoder accepts carries: format by format, the operands read, the bytes they were read from and
the bounds R83 and R87 put on them. Every decoded operation is well-formed. -/

namespace Sys2Proof

theorem fitsLenByte_iff {data : List Byte} : fitsLenByte data = true ↔ data.length ≤ 255 := by simp [fitsLenByte]

section Formats

variable {c : Config} {bs rest : List Byte} {i : Instr}

theorem formatZ_eq_ok {mk : Instr} (h : formatZ mk bs = .ok (i, rest)) : i = mk ∧ bs = rest := by
  cases h
  exact ⟨rfl, rfl⟩

theorem formatI_eq_ok {mk : Byte → Instr} (h : formatI mk bs = .ok (i, rest)) :
    ∃ idx, i = mk idx ∧ bs = idx :: rest := by
  obtain ⟨⟨idx, bs⟩, hidx, ⟨⟩⟩ := bind_eq_ok.mp h
  exact ⟨idx, rfl, takeU8_eq_ok.mp hidx⟩

theorem formatH_eq_ok {mk : Nat → Instr} (h : formatH c mk bs = .ok (i, rest)) :
    ∃ handle, i = mk handle ∧ bs = leField c.handleW handle ++ rest ∧ fitsWidth c.handleW handle = true := by
  obtain ⟨⟨handle, bs⟩, hhandle, ⟨⟩⟩ := bind_eq_ok.mp h
  exact ⟨handle, rfl, takeField_eq_ok.mp hhandle⟩

theorem formatB_eq_ok {mk : List Byte → Instr} (h : formatB mk bs = .ok (i, rest)) :
    ∃ data, i = mk data ∧ bs = lenBytes data ++ rest ∧ fitsLenByte data = true := by
  obtain ⟨⟨data, bs⟩, hdata, ⟨⟩⟩ := bind_eq_ok.mp h
  obtain ⟨rfl, hlen⟩ := takeLenBytes_eq_ok.mp hdata
  exact ⟨data, rfl, rfl, fitsLenByte_iff.mpr hlen⟩

theorem formatT_eq_ok {mk : Byte → List Byte → Instr} (h : formatT mk bs = .ok (i, rest)) :
    ∃ code data, i = mk code data ∧ bs = code :: lenBytes data ++ rest ∧ fitsLenByte data = true := by
  obtain ⟨⟨code, bs₁⟩, hcode, h⟩ := bind_eq_ok.mp h
  obtain ⟨data, hi, rfl, hlen⟩ := formatB_eq_ok (mk := mk code) h
  exact ⟨code, data, hi, takeU8_eq_ok.mp hcode, hlen⟩

theorem formatL_eq_ok {mk : List Byte → List Byte → Instr} (h : formatL mk bs = .ok (i, rest)) :
    ∃ label color, i = mk label color ∧ bs = lenBytes label ++ lenBytes color ++ rest ∧
      fitsLenByte label = true ∧ fitsLenByte color = true := by
  obtain ⟨⟨label, bs₁⟩, hlabel, h⟩ := bind_eq_ok.mp h
  obtain ⟨color, hi, rfl, hcolor⟩ := formatB_eq_ok (mk := mk label) h
  obtain ⟨rfl, hlen⟩ := takeLenBytes_eq_ok.mp hlabel
  exact ⟨label, color, hi, by simp, fitsLenByte_iff.mpr hlen, hcolor⟩

theorem formatV_eq_ok {mk : Millivolts → Nat → Instr} (h : formatV c mk bs = .ok (i, rest)) :
    ∃ mv now, i = mk mv now ∧ bs = le16 mv ++ leField c.tsW now ++ rest ∧ fitsWidth c.tsW now = true := by
  obtain ⟨⟨mv, bs₁⟩, hmv, h⟩ := bind_eq_ok.mp h
  obtain ⟨⟨now, bs₂⟩, hnow, ⟨⟩⟩ := bind_eq_ok.mp h
  obtain rfl := takeU16_eq_ok.mp hmv
  obtain ⟨rfl, hfit⟩ := takeField_eq_ok.mp hnow
  exact ⟨mv, now, rfl, by simp, hfit⟩

theorem formatS_eq_ok {mk : List Byte → List Byte → Nat → Instr} (h : formatS c mk bs = .ok (i, rest)) :
    ∃ label color now, i = mk label color now ∧
      bs = lenBytes label ++ lenBytes color ++ leField c.tsW now ++ rest ∧
      fitsLenByte label = true ∧ fitsLenByte color = true ∧ fitsWidth c.tsW now = true := by
  obtain ⟨⟨label, bs₁⟩, hlabel, h⟩ := bind_eq_ok.mp h
  obtain ⟨⟨color, bs₂⟩, hcolor, h⟩ := bind_eq_ok.mp h
  obtain ⟨⟨now, bs₃⟩, hnow, ⟨⟩⟩ := bind_eq_ok.mp h
  obtain ⟨rfl, hlen⟩ := takeLenBytes_eq_ok.mp hlabel
  obtain ⟨rfl, hlen'⟩ := takeLenBytes_eq_ok.mp hcolor
  obtain ⟨rfl, hfit⟩ := takeField_eq_ok.mp hnow
  exact ⟨label, color, now, rfl, by simp, fitsLenByte_iff.mpr hlen, fitsLenByte_iff.mpr hlen', hfit⟩

theorem formatN_eq_ok (h : formatN bs = .ok (i, rest)) :
    ∃ rstat name, i = .agInit rstat name ∧ bs = rstat.byte :: lenBytes name ++ rest ∧ fitsLenByte name = true := by
  obtain ⟨⟨b, bs₁⟩, hb, h⟩ := bind_eq_ok.mp h
  obtain ⟨rstat, hrstat, h⟩ := bind_eq_ok.mp h
  obtain ⟨name, hi, rfl, hlen⟩ := formatB_eq_ok (mk := .agInit rstat) h
  obtain rfl := RStat.ofByte_eq_ok.mp hrstat
  exact ⟨rstat, name, hi, takeU8_eq_ok.mp hb, hlen⟩

theorem formatW_eq_ok (h : formatW c bs = .ok (i, rest)) :
    ∃ handle char value, i = .evWrite handle char value ∧
      bs = leField c.handleW handle ++ char.byte :: lenBytes value ++ rest ∧
      fitsWidth c.handleW handle = true ∧ char.wf = true ∧ fitsLenByte value = true ∧ value.length ≤ c.rxMax := by
  obtain ⟨⟨handle, bs₁⟩, hhandle, h⟩ := bind_eq_ok.mp h
  obtain ⟨⟨char, bs₂⟩, hchar, h⟩ := bind_eq_ok.mp h
  obtain ⟨⟨len, bs₃⟩, hlen, h⟩ := bind_eq_ok.mp h
  dsimp only at h
  split at h
  · cases h
  next hmax =>
  obtain ⟨⟨value, bs₄⟩, hvalue, ⟨⟩⟩ := bind_eq_ok.mp h
  obtain ⟨rfl, hfit⟩ := takeField_eq_ok.mp hhandle
  obtain rfl := takeU8_eq_ok.mp hchar
  obtain rfl := takeU8_eq_ok.mp hlen
  obtain ⟨rfl, hl⟩ := takeBytes_eq_ok.mp hvalue
  obtain ⟨hwf, hbyte⟩ := CharSel.ofByte_wf char
  have hb : lenByte value = len := by simp [lenByte, hl]
  have hlt := len.isLt
  exact ⟨handle, .ofByte char, value, rfl, by simp [lenBytes, hbyte, hb], hfit, hwf,
    fitsLenByte_iff.mpr (by omega), by omega⟩

/-- The last two bytes are `app`, read whether or not the appearance is present (log entry 16). -/
theorem formatA_eq_ok (h : formatA bs = .ok (i, rest)) :
    ∃ (present flags : Byte) (name : List Byte) (uuids : List (List Byte)) (app : BitVec 16),
      i = .advEnc flags (if present.getLsbD 0 then some name else none) uuids
        (if present.getLsbD 1 then some app else none) ∧
      bs = present :: flags :: lenBytes name ++ lenByte uuids :: uuids.flatMap lenBytes ++ le16 app ++ rest ∧
      present.extractLsb' 2 6 = 0 ∧ (present.getLsbD 0 = false → name = []) ∧
      fitsLenByte name = true ∧ uuids.length ≤ 255 ∧ uuids.all uuidWidthOk = true := by
  obtain ⟨⟨present, bs₁⟩, hpresent, h⟩ := bind_eq_ok.mp h
  dsimp only at h
  split at h
  · cases h
  next hreserved =>
  obtain ⟨⟨flags, bs₂⟩, hflags, h⟩ := bind_eq_ok.mp h
  obtain ⟨⟨nlen, bs₃⟩, hnlen, h⟩ := bind_eq_ok.mp h
  dsimp only at h
  split at h
  · cases h
  next hname =>
  obtain ⟨⟨name, bs₄⟩, hn, h⟩ := bind_eq_ok.mp h
  obtain ⟨⟨ucount, bs₅⟩, hucount, h⟩ := bind_eq_ok.mp h
  obtain ⟨⟨uuids, bs₆⟩, huuids, h⟩ := bind_eq_ok.mp h
  obtain ⟨⟨app, bs₇⟩, happ, ⟨⟩⟩ := bind_eq_ok.mp h
  obtain rfl := takeU8_eq_ok.mp hpresent
  obtain rfl := takeU8_eq_ok.mp hflags
  obtain rfl := takeU8_eq_ok.mp hnlen
  obtain ⟨rfl, hl⟩ := takeBytes_eq_ok.mp hn
  obtain rfl := takeU8_eq_ok.mp hucount
  obtain ⟨rfl, hcount, hwidths⟩ := takeUuids_eq_ok.mp huuids
  obtain rfl := takeU16_eq_ok.mp happ
  have hb : lenByte name = nlen := by simp [lenByte, hl]
  have hu : lenByte uuids = ucount := by simp [lenByte, hcount]
  have hlt := nlen.isLt
  have hlt' := ucount.isLt
  refine ⟨present, flags, name, uuids, app, rfl, by simp [lenBytes, hb, hu], not_not.mp hreserved, fun habsent => ?_,
    fitsLenByte_iff.mpr (by omega), by omega, hwidths⟩
  have hzero : nlen = 0 := not_not.mp fun hne => hname ⟨habsent, hne⟩
  exact List.length_eq_zero_iff.mp (by simpa [hzero] using hl)

/-- The operands the decoder reads are within the bounds R83 and R87 put on them. -/
theorem decodeOperands_wf {op : Op} (h : decodeOperands c op bs = .ok (i, rest)) : i.wf c = true := by
  cases op with
  | lnkIsconn | cfServo | agIsconn | agGetservo => obtain ⟨rfl, -⟩ := formatZ_eq_ok h; rfl
  | cfRawaxis | cfAxis | cfButton | agGetaxis | agGetbtn => obtain ⟨idx, rfl, -⟩ := formatI_eq_ok h; rfl
  | evConn | evDisc => obtain ⟨handle, rfl, -, hfit⟩ := formatH_eq_ok h; exact hfit
  | cfWrite | lnkSend | advDecn | advDecs => obtain ⟨data, rfl, -, hlen⟩ := formatB_eq_ok h; exact hlen
  | tmBatt | agBatt => obtain ⟨mv, now, rfl, -, hfit⟩ := formatV_eq_ok h; exact hfit
  | advDecf => obtain ⟨code, data, rfl, -, hlen⟩ := formatT_eq_ok h; exact hlen
  | agInit => obtain ⟨rstat, name, rfl, -, hlen⟩ := formatN_eq_ok h; exact hlen
  | tmBuild =>
    obtain ⟨label, color, rfl, -, hlabel, hcolor⟩ := formatL_eq_ok h
    simp [Instr.wf, hlabel, hcolor]
  | tmTrysend =>
    obtain ⟨label, color, now, rfl, -, hlabel, hcolor, hfit⟩ := formatS_eq_ok h
    simp [Instr.wf, hlabel, hcolor, hfit]
  | evWrite =>
    obtain ⟨handle, char, value, rfl, -, hfit, hchar, hlen, hmax⟩ := formatW_eq_ok h
    simp [Instr.wf, hfit, hchar, hlen, hmax]
  | advEnc =>
    obtain ⟨present, flags, name, uuids, app, rfl, -, -, -, hlen, hcount, hwidths⟩ := formatA_eq_ok h
    have hname : fitsLenByte ((if present.getLsbD 0 then some name else none).getD []) = true := by
      split
      · exact hlen
      · rfl
    simp only [Instr.wf, hname, hcount, hwidths, decide_true, Bool.and_self]

theorem decodeHead_wf (h : decodeHead c bs = .ok (i, rest)) : i.wf c = true := by
  unfold decodeHead at h
  split at h
  · cases h
  · split at h
    · cases h
    · exact decodeOperands_wf h

theorem decode_wf (h : decode c bs = .ok i) : i.wf c = true := decodeHead_wf (decode_eq_ok.mp h)

end Formats

end Sys2Proof
end

section
/-! What an operation that completes, and what a step, can do to the state: each said once, for every operation. The
invariants below are read off these cases. -/

namespace Sys2Proof.Machine

open Sys2Proof.Claims

/-! ### The operations -/

/-- What an operation leaves when it completes, by the writers of R198 and R199. Telemetry sends are those of `SendsAt`. -/
inductive Completes (i : Instr) (s : State) : State → Prop
  /-- Nothing changed but the answer: an accessor, a codec operation, a write to another characteristic than RX, a
  suppressed send. -/
  | replied (r : Result) : Completes i s (s.respond i.port (.ok r))
  /-- A written value replaced the frame (R123, R141). -/
  | frameWritten (raw : List Byte) (hi : i = .cfWrite raw ∨ ∃ h, i = .evWrite h .rx raw) :
      Completes i s ((s.setFrame (frameOf raw)).respond .ePort (.ok .done))
  /-- A handle became present (R121). -/
  | connected (h : Nat) (hi : i = .evConn h) :
      Completes i s ((s.setConn (connInsert h s.conn)).respond .ePort (.ok .done))
  /-- A handle became absent (R122). -/
  | disconnected (h : Nat) (hi : i = .evDisc h) :
      Completes i s (((s.setConn (connErase h s.conn)).emits [.advertise s.advp]).respond .ePort (.ok .done))
  /-- Bytes were notified (R124). -/
  | notified (bytes : List Byte) (hi : i = .lnkSend bytes) :
      Completes i s ((s.notifyAll bytes).respond .pPort (.ok .done))
  /-- A telemetry frame was notified and the time recorded (R164). -/
  | sent (label color : List Byte) (now : Nat) (hi : SendsAt i now) (hlimit : s.suppressed now = false) :
      Completes i s (((s.notifyAll (buildFrame label color)).recordSend now).respond .pPort (.ok (.bool true)))
  /-- The construction succeeded and loaded the payload (R181). -/
  | constructed (name p : List Byte) (events : List OutEvent) (hi : i = .agInit .allSucceeded name)
      (hnew : s.initd = false) (hp : constructionPayload s.cfg name = .ok p) (hfits : p.length ≤ ADV_CAP) :
      Completes i s (((s.emits events).loadPayload p).respond .pPort (.ok .done))
  /-- A construction request failed (R181, R192). -/
  | constructionFailed (rstat : RStat) (name : List Byte) (which : InitStage) (events : List OutEvent)
      (hi : i = .agInit rstat name) (hfailed : rstat ≠ .allSucceeded) (hnew : s.initd = false) :
      Completes i s ((s.emits events).respond .pPort (.initError which))

section Completion

variable {i : Instr} {s t : State}

theorem completes_of_complete {r : Result} (h : complete i.port r s = .next t) : Completes i s t := by
  obtain rfl := complete_eq_next.mp h
  exact .replied r

theorem completes_of_completeDecoding {r : Result} (hport : i.port = .pPort) (h : completeDecoding r s = .next t) :
    Completes i s t := by
  obtain ⟨-, rfl⟩ := completeDecoding_eq_next.mp h
  exact hport ▸ .replied r

theorem completes_of_execAdvEnc {flags : Byte} {name : Option (List Byte)} {uuids : List (List Byte)}
    {appearance : Option (BitVec 16)} (hport : i.port = .pPort)
    (h : execAdvEnc flags name uuids appearance s = .next t) : Completes i s t := by
  unfold execAdvEnc at h
  split at h
  · cases h
  · split at h
    · cases h
    · exact completes_of_complete (hport ▸ h)

theorem completes_of_execTmBuild {label color : List Byte} (hport : i.port = .pPort)
    (h : execTmBuild label color s = .next t) : Completes i s t := by
  unfold execTmBuild at h
  split at h
  · exact completes_of_complete (hport ▸ h)
  · cases h

theorem port_of_sendsAt {now : Nat} (hi : SendsAt i now) : i.port = .pPort := by
  rcases hi with ⟨_, _, rfl⟩ | ⟨_, rfl⟩ | ⟨_, rfl⟩ <;> rfl

theorem completes_of_sendTelemetry {label color : List Byte} {now : Nat} (hi : SendsAt i now)
    (h : sendTelemetry label color now s = .next t) : Completes i s t := by
  obtain ⟨-, h⟩ := sendTelemetry_eq_next.mp h
  rcases trySend_cases label color now s with ⟨-, e⟩ | ⟨hlimit, e⟩
  · exact completes_of_complete (port_of_sendsAt hi ▸ e.symm.trans h)
  · obtain rfl := complete_eq_next.mp (e.symm.trans h)
    exact .sent label color now hi hlimit

/-- Two emissions in a row are one emission of both. -/
@[simp] theorem State.emits_emits (s : State) (es fs : List OutEvent) : (s.emits es).emits fs = s.emits (es ++ fs) := by
  simp [State.emits]

/-- AG.INIT that completes was admitted, and ran the radio requests with the payload it built (R181). -/
theorem execAgInit_eq_next {rstat : RStat} {name : List Byte} :
    execAgInit rstat name s = .next t ↔
      s.initd = false ∧ ∃ p, constructionPayload s.cfg name = .ok p ∧ p.length ≤ ADV_CAP ∧
        construct rstat p s = .next t := by
  unfold execAgInit
  cases s.initd with
  | true => simp
  | false =>
    cases constructionPayload s.cfg name with
    | error r => simp
    | ok p => by_cases hfits : ADV_CAP < p.length <;> simp [hfits, Nat.le_of_not_lt]

theorem completes_of_execAgInit {rstat : RStat} {name : List Byte} (h : execAgInit rstat name s = .next t) :
    Completes (.agInit rstat name) s t := by
  obtain ⟨hnew, p, hp, hfits, h⟩ := execAgInit_eq_next.mp h
  rw [construct_eq] at h
  cases rstat with
  | allSucceeded =>
    obtain rfl := complete_eq_next.mp h
    simpa using Completes.constructed name p _ rfl hnew hp hfits
  | activationFailed | registrationFailed | advertiseFailed =>
    obtain rfl := raiseInitError_eq_next.mp h
    simpa using Completes.constructionFailed _ name _ _ rfl (by decide) hnew

/-- Every operation that completes does one of the eight things. -/
theorem exec_completes (h : exec i s = .next t) : Completes i s t := by
  cases i with
  | lnkIsconn | cfRawaxis | cfAxis | cfButton | cfServo | agIsconn | agGetaxis | agGetbtn | agGetservo =>
    exact completes_of_complete h
  | evConn handle => obtain rfl := complete_eq_next.mp h; exact .connected handle rfl
  | evDisc handle => obtain rfl := complete_eq_next.mp h; exact .disconnected handle rfl
  | cfWrite raw => obtain rfl := complete_eq_next.mp h; exact .frameWritten raw (.inl rfl)
  | evWrite handle char value =>
    cases char with
    | rx => obtain rfl := complete_eq_next.mp h; exact .frameWritten value (.inr ⟨handle, rfl⟩)
    | tx | other => exact completes_of_complete h
  | lnkSend bytes => obtain rfl := complete_eq_next.mp h; exact .notified bytes rfl
  | tmBuild => exact completes_of_execTmBuild rfl h
  | tmTrysend => exact completes_of_sendTelemetry (.inl ⟨_, _, rfl⟩) h
  | tmBatt => exact completes_of_sendTelemetry (.inr (.inl ⟨_, rfl⟩)) h
  | agBatt => exact completes_of_sendTelemetry (.inr (.inr ⟨_, rfl⟩)) h
  | advEnc => exact completes_of_execAdvEnc rfl h
  | advDecf | advDecn | advDecs => exact completes_of_completeDecoding rfl h
  | agInit rstat name => exact completes_of_execAgInit h

end Completion

/-! ### The step -/

theorem select_eq_none {s : State} : select s = none ↔ s.eport = [] ∧ s.pport = [] := by
  unfold select
  split
  · simp_all
  · simp_all
  · simp_all
  · split <;> simp_all

theorem serves_of_select {s taken : State} {port : Port} {c : List Byte} (h : select s = some (port, c, taken)) :
    Serves s port c taken := by
  unfold select at h
  split at h
  · cases h
  · next he hp => cases h; exact ⟨_, he, .inl ⟨hp, rfl⟩⟩
  · next he hp => cases h; exact ⟨_, hp, .inl ⟨he, rfl⟩⟩
  · next he hp =>
    split at h
    · next hturn => cases h; exact ⟨_, he, .inr ⟨by simp [hp], hturn, rfl⟩⟩
    · next hturn => cases h; exact ⟨_, hp, .inr ⟨by simp [he], hturn, rfl⟩⟩

theorem select_of_serves {s taken : State} {port : Port} {c : List Byte} (h : Serves s port c taken) :
    select s = some (port, c, taken) := by
  cases port with
  | ePort =>
    obtain ⟨es, he, ⟨hp, rfl⟩ | ⟨hp, hturn, rfl⟩⟩ := h
    · simp [select, he, hp]
    · obtain ⟨d, ps, hps⟩ := List.exists_cons_of_ne_nil hp
      simp [select, he, hps, hturn]
  | pPort =>
    obtain ⟨ps, hp, ⟨he, rfl⟩ | ⟨he, hturn, rfl⟩⟩ := h
    · simp [select, he, hp]
    · obtain ⟨c, es, hes⟩ := List.exists_cons_of_ne_nil he
      simp [select, hes, hp, hturn]

/-- The model's choice of the next command is the one the statements speak of. -/
theorem select_eq_some {s taken : State} {port : Port} {c : List Byte} :
    select s = some (port, c, taken) ↔ Serves s port c taken := ⟨serves_of_select, select_of_serves⟩

/-- Taking a command changes only what waits at the ports and the arbiter. -/
theorem taken_of_serves {s taken : State} {port : Port} {c : List Byte} (h : Serves s port c taken) :
    ∃ es ps turn free, taken = { s with eport := es, pport := ps, turn := turn, free := free } := by
  cases port with
  | ePort => obtain ⟨es, -, ⟨-, rfl⟩ | ⟨-, -, rfl⟩⟩ := h <;> exact ⟨_, _, _, _, rfl⟩
  | pPort => obtain ⟨ps, -, ⟨-, rfl⟩ | ⟨-, -, rfl⟩⟩ := h <;> exact ⟨_, _, _, _, rfl⟩

theorem cfg_of_serves {s taken : State} {port : Port} {c : List Byte} (h : Serves s port c taken) :
    taken.cfg = s.cfg := by
  obtain ⟨_, _, _, _, rfl⟩ := taken_of_serves h
  rfl

/-- A step that answers a next state was idle, answered a command `invalid`, or performed the operation it spells. -/
theorem step_cases {s t : State} (h : step s = .next t) :
    (s.eport = [] ∧ s.pport = [] ∧ t = s) ∨
    ∃ port c taken, Serves s port c taken ∧
      ((∃ why, t = taken.respond port (.invalid why)) ∨
        ∃ i, decode s.cfg c = .ok i ∧ i.port = port ∧ exec i taken = .next t) := by
  unfold step at h
  cases hsel : select s with
  | none =>
    rw [hsel] at h
    cases h
    obtain ⟨he, hp⟩ := select_eq_none.mp hsel
    exact .inl ⟨he, hp, rfl⟩
  | some served =>
    obtain ⟨port, c, taken⟩ := served
    have hserves := select_eq_some.mp hsel
    refine .inr ⟨port, c, taken, hserves, ?_⟩
    simp only [hsel, cfg_of_serves hserves] at h
    cases hdec : decodeOn s.cfg port c with
    | error why =>
      rw [hdec] at h
      cases h
      exact .inl ⟨why, rfl⟩
    | ok i =>
      rw [hdec] at h
      obtain ⟨hi, hport⟩ := decodeOn_eq_ok.mp hdec
      exact .inr ⟨i, hi, hport, h⟩

end Sys2Proof.Machine
end

section
/-! The invariant `State.legal`: what each register's part of it needs, every operation and every step keep it, and the
state after reset meets it. -/

namespace Sys2Proof.Machine

open Sys2Proof.Claims

theorem legal_iff {s : State} :
    s.legal = true ↔ frameLegal s.frame = true ∧ connLegal s.cfg.handleW s.conn = true ∧
      fitsWidth s.cfg.tsW s.lastSend = true ∧ advpLegal s.initd s.advp = true := by
  simp [State.legal, and_assoc]

/-! ### The registers -/

/-- A written value leaves at most 20 bytes, of tag 1 (R22, R23): its own first ones, or the neutral frame. -/
theorem frameLegal_frameOf (raw : List Byte) : frameLegal (frameOf raw) = true := by
  unfold frameOf
  split
  · next hraw =>
    obtain ⟨tail, rfl⟩ := accepted_iff.mp hraw
    simp [frameLegal, FRAME_LEN]
  · decide

theorem connLegal_connInsert {w h : Nat} {conn : List Nat} (hh : fitsWidth w h = true) (hc : connLegal w conn = true) :
    connLegal w (connInsert h conn) = true := by
  simp only [connLegal, Bool.and_eq_true, List.all_eq_true, mem_connInsert] at *
  refine ⟨connInsert_canonical hc.1, ?_⟩
  rintro g (rfl | hg)
  · exact hh
  · exact hc.2 g hg

theorem connLegal_connErase {w h : Nat} {conn : List Nat} (hc : connLegal w conn = true) :
    connLegal w (connErase h conn) = true := by
  simp only [connLegal, Bool.and_eq_true, List.all_eq_true, mem_connErase] at *
  exact ⟨connErase_canonical hc.1, fun g hg => hc.2 g hg.1⟩

theorem record_length (code : Byte) (value : List Byte) : (record code value).length = 2 + value.length := by
  simp only [record, List.length_cons]
  omega

/-- The payload AG.INIT builds is three records: flags, name and service UUID (R181). -/
theorem constructionPayload_eq_ok {c : Config} {name p : List Byte} :
    constructionPayload c name = .ok p ↔ typeCodesDistinct c = true ∧ name.length ≤ 254 ∧
      p = record c.tFlags [c.advFlags] ++ record c.tName name ++ record c.tUuid128 c.svcUuid.toList := by
  have huuid : uuidRecords c [c.svcUuid.toList] = .ok (record c.tUuid128 c.svcUuid.toList) := by
    simp [uuidRecords, uuidCode]
  unfold constructionPayload encodePayload
  cases typeCodesDistinct c with
  | false => simp
  | true =>
    by_cases hname : 254 < name.length
    · simp [nameRecord, hname]
    · simp [nameRecord, hname, huuid, appearanceRecord, Nat.le_of_not_lt, eq_comm]

/-- The payload AG.INIT builds has `23 + n` bytes for a name of `n` bytes (R182). -/
theorem constructionPayload_length {c : Config} {name p : List Byte} (h : constructionPayload c name = .ok p) :
    p.length = 23 + name.length := by
  obtain ⟨-, -, rfl⟩ := constructionPayload_eq_ok.mp h
  simp only [List.length_append, record_length, List.length_singleton, Vector.length_toList]
  omega

theorem advpLegal_constructionPayload {c : Config} {name p : List Byte} (hp : constructionPayload c name = .ok p)
    (hfits : p.length ≤ ADV_CAP) : advpLegal true p = true := by
  have hlen := constructionPayload_length hp
  simp only [advpLegal, if_true, Bool.and_eq_true, decide_eq_true_eq]
  exact ⟨by omega, hfits⟩

/-! ### The operations -/

theorem fitsWidth_of_sendsAt {c : Config} {i : Instr} {now : Nat} (hi : SendsAt i now) (hwf : i.wf c = true) :
    fitsWidth c.tsW now = true := by
  rcases hi with ⟨label, color, rfl⟩ | ⟨mv, rfl⟩ | ⟨mv, rfl⟩
  · simp only [Instr.wf, Bool.and_eq_true] at hwf
    exact hwf.2
  · exact hwf
  · exact hwf

/-- A well-formed operation that completes leaves a legal state legal. -/
theorem exec_keeps_legal {i : Instr} {s t : State} (hs : s.legal = true) (hwf : i.wf s.cfg = true)
    (h : exec i s = .next t) : t.legal = true := by
  obtain ⟨hframe, hconn, hlast, hadvp⟩ := legal_iff.mp hs
  rw [legal_iff]
  cases exec_completes h with
  | replied | notified | constructionFailed => exact ⟨hframe, hconn, hlast, hadvp⟩
  | frameWritten raw => exact ⟨frameLegal_frameOf raw, hconn, hlast, hadvp⟩
  | connected handle hi => subst hi; exact ⟨hframe, connLegal_connInsert hwf hconn, hlast, hadvp⟩
  | disconnected => exact ⟨hframe, connLegal_connErase hconn, hlast, hadvp⟩
  | sent label color now hi => exact ⟨hframe, hconn, fitsWidth_of_sendsAt hi hwf, hadvp⟩
  | constructed name p events hi hnew hp hfits =>
    exact ⟨hframe, hconn, hlast, advpLegal_constructionPayload hp hfits⟩

/-! ### The step and reset -/

theorem legal_of_serves {s taken : State} {port : Port} {c : List Byte} (h : Serves s port c taken) :
    taken.legal = s.legal := by
  obtain ⟨_, _, _, _, rfl⟩ := taken_of_serves h
  rfl

/-- Settles O20: an operation that the decoder accepts is well-formed, so it keeps the invariant. -/
theorem stepKeepsTheStateLegal : Obligations.StepKeepsTheStateLegal := by
  intro s t hs h
  rcases step_cases h with ⟨-, -, rfl⟩ | ⟨port, c, taken, hserves, ⟨why, rfl⟩ | ⟨i, hdec, -, hexec⟩⟩
  · exact hs
  · exact (legal_of_serves hserves).trans hs
  · refine exec_keeps_legal ((legal_of_serves hserves).trans hs) ?_ hexec
    rw [cfg_of_serves hserves]
    exact decode_wf hdec

/-- Every register but LAST_SEND is empty or false after reset. -/
theorem resetWith_legal {c : Config} (h : fitsWidth c.tsW (c.lastSendReset.getD 0) = true) :
    (State.resetWith c).legal = true := legal_iff.mpr ⟨rfl, rfl, h, rfl⟩

/-- Settles O21: R9 asks P_LAST_SEND_RESET to fit TS_W bits. -/
theorem resetIsLegal : Obligations.ResetIsLegal := by
  refine ⟨resetWith_legal (by decide), fun c hc => resetWith_legal ?_⟩
  simp only [Config.wf, Bool.and_eq_true] at hc
  exact hc.1.2

end Sys2Proof.Machine
end

section
/-! What no step takes back: the configuration, the output events, the answers, and the payload once built. -/

namespace Sys2Proof.Machine

open Sys2Proof.Claims

/-- Only four kinds of operation emit, and they append. -/
theorem exec_emits {i : Instr} {s t : State} (h : exec i s = .next t) :
    ∃ events, t.oport = s.oport ++ events ∧
      (events ≠ [] → (∃ h, i = .evDisc h) ∨ (∃ bytes, i = .lnkSend bytes) ∨ (∃ now, SendsAt i now) ∨
        ∃ rstat name, i = .agInit rstat name) := by
  cases exec_completes h with
  | replied | frameWritten | connected => exact ⟨[], (List.append_nil _).symm, fun hne => absurd rfl hne⟩
  | disconnected handle hi => exact ⟨_, rfl, fun _ => .inl ⟨handle, hi⟩⟩
  | notified bytes hi => exact ⟨_, rfl, fun _ => .inr (.inl ⟨bytes, hi⟩)⟩
  | sent label color now hi => exact ⟨_, rfl, fun _ => .inr (.inr (.inl ⟨now, hi⟩))⟩
  | constructed name p events hi => exact ⟨_, rfl, fun _ => .inr (.inr (.inr ⟨_, name, hi⟩))⟩
  | constructionFailed rstat name which events hi => exact ⟨_, rfl, fun _ => .inr (.inr (.inr ⟨rstat, name, hi⟩))⟩

/-- Settles O15, by the eight ways to complete. -/
theorem outputEventsHaveOnlyTheirSources : Obligations.OutputEventsHaveOnlyTheirSources := fun _ _ _ => exec_emits

/-- An operation keeps the configuration and is answered once. -/
theorem exec_answers_once {i : Instr} {s t : State} (h : exec i s = .next t) :
    t.cfg = s.cfg ∧ ∃ port a, t.answers = s.answers ++ [(port, a)] := by
  cases exec_completes h <;> exact ⟨rfl, _, _, rfl⟩

/-- Settles O12, from what an operation emits and answers. -/
theorem outputsOnlyGrowAndConfigurationIsFixed : Obligations.OutputsOnlyGrowAndConfigurationIsFixed := by
  intro s t h
  rcases step_cases h with ⟨he, hp, rfl⟩ | ⟨port, c, taken, hserves, hdone⟩
  · exact ⟨rfl, List.prefix_rfl, .inl ⟨rfl, he, hp⟩⟩
  obtain ⟨es, ps, turn, free, rfl⟩ := taken_of_serves hserves
  rcases hdone with ⟨why, rfl⟩ | ⟨i, -, -, hexec⟩
  · exact ⟨rfl, List.prefix_rfl, .inr ⟨_, _, rfl⟩⟩
  · obtain ⟨events, hevents, -⟩ := exec_emits hexec
    obtain ⟨hcfg, hanswers⟩ := exec_answers_once hexec
    exact ⟨hcfg, ⟨events, hevents.symm⟩, .inr hanswers⟩

/-- A constructed block stays constructed, with the same payload: AG.INIT alone writes them, and needs INITD = 0. -/
theorem exec_keeps_payload {i : Instr} {s t : State} (h : exec i s = .next t) (hs : s.initd = true) :
    t.initd = true ∧ t.advp = s.advp := by
  cases exec_completes h with
  | replied | frameWritten | connected | disconnected | notified | sent => exact ⟨hs, rfl⟩
  | constructed name p events hi hnew => simp [hs] at hnew
  | constructionFailed => exact ⟨hs, rfl⟩

theorem step_keeps_payload {s t : State} (h : step s = .next t) (hs : s.initd = true) :
    t.initd = true ∧ t.advp = s.advp := by
  rcases step_cases h with ⟨-, -, rfl⟩ | ⟨port, c, taken, hserves, hdone⟩
  · exact ⟨hs, rfl⟩
  obtain ⟨es, ps, turn, free, rfl⟩ := taken_of_serves hserves
  rcases hdone with ⟨why, rfl⟩ | ⟨i, -, -, hexec⟩
  · exact ⟨hs, rfl⟩
  · obtain ⟨hinitd, hadvp⟩ := exec_keeps_payload hexec hs
    exact ⟨hinitd, hadvp⟩

/-- Settles O23, by induction on the run. -/
theorem payloadIsImmutableOnceBuilt : Obligations.PayloadIsImmutableOnceBuilt := by
  intro s t hs hrun
  induction hrun with
  | refl => exact ⟨hs, rfl⟩
  | tail _ hstep ih =>
    obtain ⟨hinitd, hadvp⟩ := step_keeps_payload hstep ih.1
    exact ⟨hinitd, hadvp.trans ih.2⟩

end Sys2Proof.Machine
end

section
/-! What the accessors answer, and what they read before any frame was written (R36, R150). -/

namespace Sys2Proof.Machine

open Sys2Proof.Claims

theorem exec_cfRawaxis (i : Byte) (s : State) :
    exec (.cfRawaxis i) s = .next (answered s .pPort (.raw (s.rawAxis i))) := rfl

theorem exec_cfAxis (i : Byte) (s : State) :
    exec (.cfAxis i) s = .next (answered s .pPort (.axis (axisNum (s.rawAxis i)))) := rfl

theorem exec_cfButton (n : Byte) (s : State) :
    exec (.cfButton n) s = .next (answered s .pPort (.bool (s.button n))) := rfl

theorem exec_cfServo (s : State) : exec .cfServo s = .next (answered s .pPort (.angle s.servo)) := rfl

theorem exec_lnkIsconn (s : State) : exec .lnkIsconn s = .next (answered s .pPort (.bool s.connected)) := rfl

section NoFrame

variable {s : State} (hs : s.frame = [])
include hs

theorem field_of_noFrame (k : Nat) (d : Byte) : s.field k d = d := by simp [State.field, hs]

theorem rawAxis_of_noFrame (i : Byte) : s.rawAxis i = AXIS_CENTER := by
  unfold State.rawAxis
  split
  · rfl
  · exact field_of_noFrame hs _ _

theorem button_of_noFrame (n : Byte) : s.button n = false := by
  simp [State.button, State.buttonMask, field_of_noFrame hs]

theorem servo_of_noFrame : s.servo = SERVO_DEFAULT := by simp [State.servo, State.flen, hs]

end NoFrame

/-- Settles O22: without a frame every field reads as its default. -/
theorem resetReadsNeutral : Obligations.ResetReadsNeutral := by
  refine ⟨rfl, fun c => ?_⟩
  have hframe : (State.resetWith c).frame = [] := rfl
  refine ⟨rfl, fun _ => List.not_mem_nil, rfl, rfl, rfl, fun h => ?_, fun now h => ?_, fun i => ?_, fun i => ?_,
    fun n => ?_, ?_, rfl⟩
  · simp [State.resetWith, h]
  · simp [State.resetWith, h]
  · rw [exec_cfRawaxis, rawAxis_of_noFrame hframe]; rfl
  · rw [exec_cfAxis, rawAxis_of_noFrame hframe]; rfl
  · rw [exec_cfButton, button_of_noFrame hframe]
  · rw [exec_cfServo, servo_of_noFrame hframe]; rfl

end Sys2Proof.Machine
end

section
/-! One step seen from the ports: it takes the head of one queue, and performs the operation that head spells (R57, R58,
R196). -/

namespace Sys2Proof.Machine

open Sys2Proof.Claims

/-! ### What a step performs -/

theorem step_of_idle {s : State} (he : s.eport = []) (hp : s.pport = []) : step s = .next s := by
  simp [step, select_eq_none.mpr ⟨he, hp⟩]

/-- A command served that spells an operation of its port is that operation, performed whole. -/
theorem step_of_serves {s taken : State} {port : Port} {c : List Byte} {i : Instr} (hserves : Serves s port c taken)
    (hdec : decodeOn s.cfg port c = .ok i) : step s = exec i taken := by
  simp [step, select_of_serves hserves, cfg_of_serves hserves, hdec]

/-- Settles O9: the decoder on a port accepts just the operations of that port. -/
theorem stepRunsTheDecodedOperation : Obligations.StepRunsTheDecodedOperation :=
  ⟨fun _ _ _ _ _ hserves hdec hport => step_of_serves hserves (decodeOn_eq_ok.mpr ⟨hdec, hport⟩),
    fun _ => step_of_idle⟩

/-! ### The queues -/

/-- No operation presents or takes a command: the ports alone do. -/
theorem exec_keeps_queues {i : Instr} {s t : State} (h : exec i s = .next t) :
    t.eport = s.eport ∧ t.pport = s.pport := by
  cases exec_completes h <;> exact ⟨rfl, rfl⟩

/-- Once a command is taken, the rest of the step leaves both queues alone. -/
theorem step_idle_or_takes {s t : State} (h : step s = .next t) :
    (s.eport = [] ∧ s.pport = [] ∧ t = s) ∨
    ∃ port c taken, Serves s port c taken ∧ t.eport = taken.eport ∧ t.pport = taken.pport := by
  rcases step_cases h with hidle | ⟨port, c, taken, hserves, ⟨why, rfl⟩ | ⟨i, -, -, hexec⟩⟩
  · exact .inl hidle
  · exact .inr ⟨port, c, taken, hserves, rfl, rfl⟩
  · exact .inr ⟨port, c, taken, hserves, exec_keeps_queues hexec⟩

/-- The command taken is the head of its own port's queue, and the other queue stays. -/
theorem serves_takes_head {s taken : State} {port : Port} {c : List Byte} (h : Serves s port c taken) :
    (port = .ePort ∧ s.eport = c :: taken.eport ∧ taken.pport = s.pport) ∨
    (port = .pPort ∧ s.pport = c :: taken.pport ∧ taken.eport = s.eport) := by
  cases port with
  | ePort => obtain ⟨es, he, ⟨-, rfl⟩ | ⟨-, -, rfl⟩⟩ := h <;> exact .inl ⟨rfl, he, rfl⟩
  | pPort => obtain ⟨ps, hp, ⟨-, rfl⟩ | ⟨-, -, rfl⟩⟩ := h <;> exact .inr ⟨rfl, hp, rfl⟩

/-- With a command waiting on both ports, the one served is the one whose turn it is. -/
theorem port_of_serves_of_both_waiting {s taken : State} {port : Port} {c : List Byte} (h : Serves s port c taken)
    (he : s.eport ≠ []) (hp : s.pport ≠ []) : port = s.turn := by
  cases port with
  | ePort =>
    obtain ⟨-, -, ⟨hnone, -⟩ | ⟨-, hturn, -⟩⟩ := h
    exacts [absurd hnone hp, hturn.symm]
  | pPort =>
    obtain ⟨-, -, ⟨hnone, -⟩ | ⟨-, hturn, -⟩⟩ := h
    exacts [absurd hnone he, hturn.symm]

/-- With a command waiting on both ports, the step takes the head on the side of `turn`. -/
theorem step_takes_by_turn {s t : State} {c d : List Byte} {es ps : List (List Byte)} (he : s.eport = c :: es)
    (hp : s.pport = d :: ps) (h : step s = .next t) :
    (s.turn = .ePort ∧ t.eport = es ∧ t.pport = d :: ps) ∨ (s.turn = .pPort ∧ t.eport = c :: es ∧ t.pport = ps) := by
  rcases step_idle_or_takes h with ⟨hnone, -, -⟩ | ⟨port, b, taken, hserves, hte, htp⟩
  · simp [he] at hnone
  have hturn : port = s.turn := port_of_serves_of_both_waiting hserves (by simp [he]) (by simp [hp])
  rcases serves_takes_head hserves with ⟨rfl, hhead, hother⟩ | ⟨rfl, hhead, hother⟩
  · obtain ⟨-, hrest⟩ := List.cons.inj (he.symm.trans hhead)
    exact .inl ⟨hturn.symm, hte.trans hrest.symm, htp.trans (hother.trans hp)⟩
  · obtain ⟨-, hrest⟩ := List.cons.inj (hp.symm.trans hhead)
    exact .inr ⟨hturn.symm, hte.trans (hother.trans he), htp.trans hrest.symm⟩

/-- Settles O11: the command taken is a head, and `turn` says which when there are two. -/
theorem portsKeepTheirOwnOrder : Obligations.PortsKeepTheirOwnOrder := by
  refine ⟨fun s t h => ?_, fun s c d es ps he hp => ⟨fun t h => ?_, fun t h => ?_⟩⟩
  · rcases step_idle_or_takes h with hidle | ⟨port, c, taken, hserves, hte, htp⟩
    · exact .inr (.inr hidle)
    · rw [hte, htp]
      rcases serves_takes_head hserves with ⟨-, hhead, hother⟩ | ⟨-, hhead, hother⟩
      · exact .inl ⟨c, hhead, hother⟩
      · exact .inr (.inl ⟨c, hhead, hother⟩)
  · simpa using step_takes_by_turn (s := { s with turn := .ePort }) he hp h
  · simpa using step_takes_by_turn (s := { s with turn := .pPort }) he hp h

/-! ### The accessors -/

/-- Settles O16: each of the nine accessors completes with a value read off the state it was given. -/
theorem accessorsChangeNothing : Obligations.AccessorsChangeNothing := by
  intro i s t hi h
  cases i with
  | lnkIsconn | cfRawaxis | cfAxis | cfButton | cfServo | agIsconn | agGetaxis | agGetbtn | agGetservo =>
    exact ⟨_, complete_eq_next.mp h⟩
  | evConn | evDisc | evWrite | cfWrite | lnkSend | tmBuild | tmTrysend | tmBatt | advEnc | advDecf | advDecn | advDecs
  | agInit | agBatt => simp [Instr.op] at hi

end Sys2Proof.Machine
end

section
/-! Reading a command back: each format's reader on the bytes the encoder writes for it, with any bytes after them, and
for an accepted command the bytes it was read from (R81 to R83). -/

namespace Sys2Proof

/-! ### Sequencing readers -/

@[simp] theorem ok_bind {α β : Type} (a : α) (f : α → Except Invalid β) : (Except.ok a >>= f) = f a := rfl

@[simp] theorem error_bind {α β : Type} (why : Invalid) (f : α → Except Invalid β) :
    (Except.error why >>= f) = .error why := rfl

@[simp] theorem takeU8_cons (b : Byte) (bs : List Byte) : takeU8 (b :: bs) = .ok (b, bs) := rfl

/-! ### The formats on what the encoder writes -/

section Formats

variable {c : Config} (rest : List Byte)

theorem formatH_leField {mk : Nat → Instr} {handle : Nat} (h : fitsWidth c.handleW handle = true) :
    formatH c mk (leField c.handleW handle ++ rest) = .ok (mk handle, rest) := by
  simp [formatH, takeField_leField h]

theorem formatB_lenBytes {mk : List Byte → Instr} {data : List Byte} (h : fitsLenByte data = true) :
    formatB mk (lenBytes data ++ rest) = .ok (mk data, rest) := by
  simp [formatB, takeLenBytes_lenBytes (fitsLenByte_iff.mp h)]

theorem formatT_cons_lenBytes {mk : Byte → List Byte → Instr} (code : Byte) {data : List Byte}
    (h : fitsLenByte data = true) : formatT mk (code :: lenBytes data ++ rest) = .ok (mk code data, rest) := by
  simp [formatT, takeLenBytes_lenBytes (fitsLenByte_iff.mp h)]

theorem formatL_lenBytes {mk : List Byte → List Byte → Instr} {label color : List Byte}
    (hlabel : fitsLenByte label = true) (hcolor : fitsLenByte color = true) :
    formatL mk (lenBytes label ++ lenBytes color ++ rest) = .ok (mk label color, rest) := by
  simp [formatL, takeLenBytes_lenBytes (fitsLenByte_iff.mp hlabel), takeLenBytes_lenBytes (fitsLenByte_iff.mp hcolor)]

theorem formatV_le16 {mk : Millivolts → Nat → Instr} (mv : Millivolts) {now : Nat}
    (h : fitsWidth c.tsW now = true) : formatV c mk (le16 mv ++ leField c.tsW now ++ rest) = .ok (mk mv now, rest) := by
  simp [formatV, takeU16_le16, takeField_leField h]

theorem formatS_lenBytes {mk : List Byte → List Byte → Nat → Instr} {label color : List Byte} {now : Nat}
    (hlabel : fitsLenByte label = true) (hcolor : fitsLenByte color = true) (hnow : fitsWidth c.tsW now = true) :
    formatS c mk (lenBytes label ++ lenBytes color ++ leField c.tsW now ++ rest) = .ok (mk label color now, rest) := by
  simp [formatS, takeLenBytes_lenBytes (fitsLenByte_iff.mp hlabel), takeLenBytes_lenBytes (fitsLenByte_iff.mp hcolor),
    takeField_leField hnow]

theorem formatN_lenBytes (rstat : RStat) {name : List Byte} (h : fitsLenByte name = true) :
    formatN (rstat.byte :: lenBytes name ++ rest) = .ok (.agInit rstat name, rest) := by
  simp [formatN, RStat.ofByte_byte, takeLenBytes_lenBytes (fitsLenByte_iff.mp h)]

theorem formatW_leField {handle : Nat} {char : CharSel} {value : List Byte}
    (hhandle : fitsWidth c.handleW handle = true) (hchar : char.wf = true) (hvalue : fitsLenByte value = true)
    (hmax : value.length ≤ c.rxMax) :
    formatW c (leField c.handleW handle ++ char.byte :: lenBytes value ++ rest) =
      .ok (.evWrite handle char value, rest) := by
  have hlen : value.length ≤ 255 := fitsLenByte_iff.mp hvalue
  have hnot : ¬ c.rxMax < (lenByte value).toNat := by rw [lenByte_toNat hlen]; omega
  simp [formatW, takeField_leField hhandle, lenBytes, hnot, takeBytes_lenByte hlen, CharSel.ofByte_byte hchar]

/-- The `present` byte says which of the name and the appearance the bytes after it hold. -/
theorem formatA_presentByte (flags : Byte) {name : Option (List Byte)} {uuids : List (List Byte)}
    (appearance : Option (BitVec 16)) (hname : fitsLenByte (name.getD []) = true) (hcount : uuids.length ≤ 255)
    (hwidths : uuids.all uuidWidthOk = true) :
    formatA (presentByte name appearance :: flags :: lenBytes (name.getD []) ++
        lenByte uuids :: uuids.flatMap lenBytes ++ le16 (appearance.getD 0) ++ rest) =
      .ok (.advEnc flags name uuids appearance, rest) := by
  obtain ⟨hreserved, hhasName, hhasApp⟩ := presentByte_bits name appearance
  have hlen := fitsLenByte_iff.mp hname
  have hnamed : ¬ (name.isSome = false ∧ lenByte (name.getD []) ≠ 0) := by
    cases name with
    | none => exact fun h => h.2 rfl
    | some => exact fun h => Bool.noConfusion h.1
  have hreadName : (if name.isSome then some (name.getD []) else none) = name := by cases name <;> rfl
  have hreadApp : (if appearance.isSome then some (appearance.getD 0) else none) = appearance := by
    cases appearance <;> rfl
  simp only [formatA, lenBytes, List.cons_append, List.append_assoc, takeU8_cons, ok_bind, hreserved, hhasName, hhasApp,
    hnamed, takeBytes_lenByte hlen, lenByte_toNat hcount, takeUuids_flatMap hwidths, takeU16_le16, hreadName, hreadApp,
    ne_eq, not_true_eq_false, if_false]

end Formats

/-! ### Decoding an encoded operation -/

theorem decodeOperands_encodeOperands {c : Config} {i : Instr} (h : i.wf c = true) (rest : List Byte) :
    decodeOperands c i.op (encodeOperands c i ++ rest) = .ok (i, rest) := by
  cases i with
  | lnkIsconn | cfServo | agIsconn | agGetservo | cfRawaxis | cfAxis | cfButton | agGetaxis | agGetbtn => rfl
  | evConn handle | evDisc handle => exact formatH_leField rest h
  | cfWrite data | lnkSend data | advDecn data | advDecs data => exact formatB_lenBytes rest h
  | tmBatt mv now | agBatt mv now => exact formatV_le16 rest mv h
  | advDecf code data => exact formatT_cons_lenBytes rest code h
  | agInit rstat name => exact formatN_lenBytes rest rstat h
  | tmBuild label color =>
    obtain ⟨hlabel, hcolor⟩ := Bool.and_eq_true_iff.mp h
    exact formatL_lenBytes rest hlabel hcolor
  | tmTrysend label color now =>
    simp only [Instr.wf, Bool.and_eq_true] at h
    obtain ⟨⟨hlabel, hcolor⟩, hnow⟩ := h
    exact formatS_lenBytes rest hlabel hcolor hnow
  | evWrite handle char value =>
    simp only [Instr.wf, Bool.and_eq_true, decide_eq_true_eq] at h
    obtain ⟨⟨⟨hhandle, hchar⟩, hvalue⟩, hmax⟩ := h
    exact formatW_leField rest hhandle hchar hvalue hmax
  | advEnc flags name uuids appearance =>
    simp only [Instr.wf, Bool.and_eq_true, decide_eq_true_eq] at h
    obtain ⟨⟨hname, hcount⟩, hwidths⟩ := h
    exact formatA_presentByte rest flags appearance hname hcount hwidths

/-- The decoder at the head of a byte sequence, once the operation byte is one of the map's. -/
@[simp] theorem decodeHead_byte_cons (c : Config) (op : Op) (bs : List Byte) :
    decodeHead c (op.byte :: bs) = decodeOperands c op bs := by
  simp [decodeHead, Op.ofByte_byte]

/-- A command is read back from the head of any bytes it begins (R81, R89). -/
theorem decodeHead_encode {c : Config} {i : Instr} (h : i.wf c = true) (rest : List Byte) :
    decodeHead c (encode c i ++ rest) = .ok (i, rest) := by
  rw [encode, List.cons_append, decodeHead_byte_cons, decodeOperands_encodeOperands h]

/-- Settles O1: the command alone leaves no bytes after it. -/
theorem decodeOfEncodeIsTheInstruction : Obligations.DecodeOfEncodeIsTheInstruction := by
  intro cfg i h
  rw [decode_eq_ok]
  simpa using decodeHead_encode h []

/-! ### The bytes of an accepted command -/

/-- The three readings of format A's `present` byte determine it. -/
theorem eq_of_present_readings {a b : Byte} (hreserved : a.extractLsb' 2 6 = b.extractLsb' 2 6)
    (hname : a.getLsbD 0 = b.getLsbD 0) (happ : a.getLsbD 1 = b.getLsbD 1) : a = b := by
  refine BitVec.eq_of_getLsbD_eq fun k hk => ?_
  match k with
  | 0 => exact hname
  | 1 => exact happ
  | k + 2 =>
    have hbit := congrArg (fun v => v.getLsbD k) hreserved
    simpa [show k < 6 by omega, Nat.add_comm] using hbit

/-- The command is ADV.ENC without appearance, and its operand bytes `bs` are those the encoder writes but for the last
two, which it writes 0 (log entry 16). -/
def IgnoresAppearanceBytes (c : Config) (i : Instr) (bs : List Byte) : Prop :=
  ∃ flags name uuids front lo hi, i = .advEnc flags name uuids none ∧ bs = front ++ [lo, hi] ∧
    encodeOperands c i = front ++ [0, 0]

theorem formatA_encodes {c : Config} {bs : List Byte} {i : Instr} (h : formatA bs = .ok (i, [])) :
    encodeOperands c i = bs ∨ IgnoresAppearanceBytes c i bs := by
  obtain ⟨present, flags, name, uuids, app, rfl, rfl, hreserved, hname, -, -, -⟩ := formatA_eq_ok h
  have hreadName : (if present.getLsbD 0 then some name else none).getD [] = name := by
    cases hbit : present.getLsbD 0 with
    | true => rfl
    | false => exact (hname hbit).symm
  have hpresent : presentByte (if present.getLsbD 0 then some name else none)
      (if present.getLsbD 1 then some app else none) = present := by
    obtain ⟨hzero, hbit0, hbit1⟩ := presentByte_bits (if present.getLsbD 0 then some name else none)
      (if present.getLsbD 1 then some app else none)
    exact eq_of_present_readings (hzero.trans hreserved.symm) (hbit0.trans (Bool.eq_iff_iff.mpr Option.isSome_ite))
      (hbit1.trans (Bool.eq_iff_iff.mpr Option.isSome_ite))
  generalize (if present.getLsbD 0 then some name else none) = nameRead at hreadName hpresent ⊢
  cases hbit : present.getLsbD 1 with
  | true =>
    rw [hbit, if_pos rfl] at hpresent
    exact .inl (by simp [encodeOperands, hpresent, hreadName])
  | false =>
    rw [hbit, if_neg Bool.false_ne_true] at hpresent
    refine .inr ⟨flags, nameRead, uuids, present :: flags :: lenBytes name ++ lenByte uuids :: uuids.flatMap lenBytes,
      app.extractLsb' 0 8, app.extractLsb' 8 8, rfl, by simp [le16], ?_⟩
    simp [encodeOperands, hpresent, hreadName, le16]

/-- The decoder reads the operands of the operation it was given, from the bytes that spell them. -/
theorem decodeOperands_encodes {c : Config} {op : Op} {bs : List Byte} {i : Instr}
    (h : decodeOperands c op bs = .ok (i, [])) :
    i.op = op ∧ (encodeOperands c i = bs ∨ IgnoresAppearanceBytes c i bs) := by
  cases op with
  | advEnc =>
    obtain ⟨_, _, _, _, _, rfl, -⟩ := formatA_eq_ok h
    exact ⟨rfl, formatA_encodes h⟩
  | lnkIsconn | cfServo | agIsconn | agGetservo =>
    obtain ⟨rfl, rfl⟩ := formatZ_eq_ok h; exact ⟨rfl, .inl rfl⟩
  | cfRawaxis | cfAxis | cfButton | agGetaxis | agGetbtn =>
    obtain ⟨idx, rfl, rfl⟩ := formatI_eq_ok h; exact ⟨rfl, .inl rfl⟩
  | evConn | evDisc =>
    obtain ⟨handle, rfl, rfl, -⟩ := formatH_eq_ok h; exact ⟨rfl, .inl (List.append_nil _).symm⟩
  | cfWrite | lnkSend | advDecn | advDecs =>
    obtain ⟨data, rfl, rfl, -⟩ := formatB_eq_ok h; exact ⟨rfl, .inl (List.append_nil _).symm⟩
  | tmBatt | agBatt =>
    obtain ⟨mv, now, rfl, rfl, -⟩ := formatV_eq_ok h; exact ⟨rfl, .inl (List.append_nil _).symm⟩
  | advDecf =>
    obtain ⟨code, data, rfl, rfl, -⟩ := formatT_eq_ok h; exact ⟨rfl, .inl (List.append_nil _).symm⟩
  | agInit =>
    obtain ⟨rstat, name, rfl, rfl, -⟩ := formatN_eq_ok h; exact ⟨rfl, .inl (List.append_nil _).symm⟩
  | tmBuild =>
    obtain ⟨label, color, rfl, rfl, -⟩ := formatL_eq_ok h; exact ⟨rfl, .inl (List.append_nil _).symm⟩
  | tmTrysend =>
    obtain ⟨label, color, now, rfl, rfl, -⟩ := formatS_eq_ok h; exact ⟨rfl, .inl (List.append_nil _).symm⟩
  | evWrite =>
    obtain ⟨handle, char, value, rfl, rfl, -⟩ := formatW_eq_ok h; exact ⟨rfl, .inl (List.append_nil _).symm⟩

/-- A command with an operation byte begins with the byte of an operation of the map. -/
theorem decodeHead_eq_ok {c : Config} {bytes rest : List Byte} {i : Instr} :
    decodeHead c bytes = .ok (i, rest) ↔
      ∃ op bs, bytes = op.byte :: bs ∧ decodeOperands c op bs = .ok (i, rest) := by
  constructor
  · intro h
    unfold decodeHead at h
    split at h
    · cases h
    next b bs =>
    split at h
    · cases h
    next op hop => exact ⟨op, bs, by rw [Op.ofByte_eq_some.mp hop], h⟩
  · rintro ⟨op, bs, rfl, h⟩
    rwa [decodeHead_byte_cons]

/-- Settles O2: format by format, the operands are read from the bytes the encoder writes. -/
theorem encodeOfDecodeIsTheCommand : Obligations.EncodeOfDecodeIsTheCommand := by
  intro cfg bytes i h
  refine ⟨decode_wf h, ?_⟩
  obtain ⟨op, bs, rfl, hoperands⟩ := decodeHead_eq_ok.mp (decode_eq_ok.mp h)
  obtain ⟨rfl, hsame | ⟨flags, name, uuids, front, lo, hi, hi', hbs, hfront⟩⟩ := decodeOperands_encodes hoperands
  · exact .inl (by rw [encode, hsame])
  · exact .inr ⟨flags, name, uuids, i.op.byte :: front, lo, hi, hi', by rw [hbs]; rfl, by rw [encode, hfront]; rfl⟩

end Sys2Proof
end

section
/-! What every reader of the decoder keeps to, proved once by the way readers are sequenced, and the commands that are cut
short, overlong or of a reserved operation byte (R81, R87). -/

namespace Sys2Proof

open Sys2Proof.Claims

/-! ### The readers -/

/-- What every reader of the decoder keeps to: with bytes missing at the end it is short of bytes or reads the same, and
it judges no operation byte. -/
structure IsReader {α : Type} (read : List Byte → Except Invalid (α × List Byte)) : Prop where
  /-- With `more` cut off, the reader is short of bytes or reads the same value before the cut. -/
  of_append : ∀ {bs more rest : List Byte} {a : α}, read (bs ++ more) = .ok (a, rest) →
    read bs = .error .truncated ∨ ∃ rest', read bs = .ok (a, rest') ∧ rest' ++ more = rest
  /-- The verdict on the operation byte is not an operand reader's. -/
  ne_reservedOp : ∀ (bs : List Byte) (b : Byte), read bs ≠ .error (.reservedOp b)

namespace IsReader

theorem ok {α : Type} (a : α) : IsReader fun bs => .ok (a, bs) where
  of_append h := by cases h; exact .inr ⟨_, rfl, rfl⟩
  ne_reservedOp _ _ := nofun

theorem error {α : Type} {why : Invalid} (h : ∀ b, why ≠ .reservedOp b) :
    IsReader fun _ => (.error why : Except Invalid (α × List Byte)) where
  of_append h := nomatch h
  ne_reservedOp _ b e := h b (Except.error.inj e)

/-- Readers in sequence are a reader. -/
theorem bind {α β : Type} {read : List Byte → Except Invalid (α × List Byte)}
    {next : α × List Byte → Except Invalid (β × List Byte)} (hread : IsReader read)
    (hnext : ∀ a, IsReader fun bs => next (a, bs)) : IsReader fun bs => read bs >>= next where
  of_append {bs more rest r} h := by
    obtain ⟨⟨a, mid⟩, hfirst, hsecond⟩ := bind_eq_ok.mp h
    rcases hread.of_append hfirst with hshort | ⟨mid', hsame, rfl⟩
    · exact .inl (by rw [hshort]; rfl)
    · rw [hsame]; exact (hnext a).of_append hsecond
  ne_reservedOp bs b h := by
    cases hfirst : read bs with
    | error why => exact hread.ne_reservedOp bs b (by rw [hfirst] at h ⊢; simpa using h)
    | ok r => rw [hfirst] at h; exact (hnext r.1).ne_reservedOp r.2 b h

theorem ite {α : Type} {p : Prop} [Decidable p] {read read' : List Byte → Except Invalid (α × List Byte)}
    (hread : IsReader read) (hread' : IsReader read') : IsReader fun bs => if p then read bs else read' bs := by
  by_cases hp : p <;> simpa [hp]

end IsReader

theorem isReader_takeU8 : IsReader takeU8 where
  of_append {bs more rest a} h := by
    cases bs with
    | nil => exact .inl rfl
    | cons b bs => cases h; exact .inr ⟨bs, rfl, rfl⟩
  ne_reservedOp bs b := by cases bs <;> nofun

theorem isReader_takeU16 : IsReader takeU16 where
  of_append {bs more rest a} h := by
    match bs with
    | [] | [_] => exact .inl rfl
    | b0 :: b1 :: bs => cases h; exact .inr ⟨bs, rfl, rfl⟩
  ne_reservedOp bs b := by
    match bs with
    | [] | [_] | _ :: _ :: _ => nofun

theorem takeLe_succ (n : Nat) : takeLe (n + 1) = fun bs => (do
    let (b, bs) ← takeU8 bs
    let (high, rest) ← takeLe n bs
    .ok (b.toNat + 256 * high, rest)) := by
  funext bs; cases bs <;> rfl

theorem isReader_takeLe (n : Nat) : IsReader (takeLe n) := by
  induction n with
  | zero => exact .ok 0
  | succ n ih => rw [takeLe_succ]; exact isReader_takeU8.bind fun b => ih.bind fun high => .ok _

theorem takeBytes_succ (n : Nat) : takeBytes (n + 1) = fun bs => (do
    let (b, bs) ← takeU8 bs
    let (taken, rest) ← takeBytes n bs
    .ok (b :: taken, rest)) := by
  funext bs; cases bs <;> rfl

theorem isReader_takeBytes (n : Nat) : IsReader (takeBytes n) := by
  induction n with
  | zero => exact .ok []
  | succ n ih => rw [takeBytes_succ]; exact isReader_takeU8.bind fun b => ih.bind fun taken => .ok _

theorem isReader_takeField (w : Nat) : IsReader (takeField w) :=
  (isReader_takeLe _).bind fun v => .ite (.ok v) (.error nofun)

theorem isReader_takeLenBytes : IsReader takeLenBytes := isReader_takeU8.bind fun len => isReader_takeBytes len.toNat

theorem isReader_takeUuids (n : Nat) : IsReader (takeUuids n) := by
  induction n with
  | zero => exact .ok []
  | succ n ih =>
    exact isReader_takeU8.bind fun w =>
      .ite ((isReader_takeBytes w.toNat).bind fun uuid => ih.bind fun uuids => .ok _) (.error nofun)

theorem isReader_ofByte (b : Byte) {α : Type} {next : RStat → List Byte → Except Invalid (α × List Byte)}
    (hnext : ∀ rstat, IsReader (next rstat)) : IsReader fun bs => RStat.ofByte b >>= fun rstat => next rstat bs := by
  cases h : RStat.ofByte b with
  | ok rstat => exact hnext rstat
  | error why =>
    obtain rfl : why = .rstatAbove3 := by unfold RStat.ofByte at h; split_ifs at h; exact (Except.error.inj h).symm
    exact .error nofun

/-! ### The formats -/

/-- The operands of every operation are read by a reader. -/
theorem isReader_decodeOperands (c : Config) (op : Op) : IsReader (decodeOperands c op) := by
  cases op with
  | lnkIsconn | cfServo | agIsconn | agGetservo => exact .ok _
  | cfRawaxis | cfAxis | cfButton | agGetaxis | agGetbtn => exact isReader_takeU8.bind fun _ => .ok _
  | evConn | evDisc => exact (isReader_takeField _).bind fun _ => .ok _
  | cfWrite | lnkSend | advDecn | advDecs => exact isReader_takeLenBytes.bind fun _ => .ok _
  | tmBatt | agBatt => exact isReader_takeU16.bind fun _ => (isReader_takeField _).bind fun _ => .ok _
  | advDecf => exact isReader_takeU8.bind fun _ => isReader_takeLenBytes.bind fun _ => .ok _
  | agInit =>
    exact isReader_takeU8.bind fun b => isReader_ofByte b fun _ => isReader_takeLenBytes.bind fun _ => .ok _
  | tmBuild => exact isReader_takeLenBytes.bind fun _ => isReader_takeLenBytes.bind fun _ => .ok _
  | tmTrysend =>
    exact isReader_takeLenBytes.bind fun _ => isReader_takeLenBytes.bind fun _ => (isReader_takeField _).bind fun _ =>
      .ok _
  | evWrite =>
    exact (isReader_takeField _).bind fun _ => isReader_takeU8.bind fun _ => isReader_takeU8.bind fun len =>
      .ite (.error nofun) <| (isReader_takeBytes len.toNat).bind fun _ => .ok _
  | advEnc =>
    exact isReader_takeU8.bind fun _ => .ite (.error nofun) <|
      isReader_takeU8.bind fun _ => isReader_takeU8.bind fun nlen => .ite (.error nofun) <|
        (isReader_takeBytes nlen.toNat).bind fun _ => isReader_takeU8.bind fun ucount =>
          (isReader_takeUuids ucount.toNat).bind fun _ => isReader_takeU16.bind fun _ => .ok _

/-! ### Reserved operation bytes -/

/-- The bytes no row of the operation map has are those of R87's ranges. -/
theorem ofByte_eq_none {b : Byte} : Op.ofByte b = none ↔ reservedByte b := by
  simp only [Op.ofByte, Op.all, List.find?_eq_none, List.forall_mem_cons, List.not_mem_nil, Op.byte, beq_iff_eq,
    false_implies, implies_true, and_true, reservedByte]
  bv_omega

/-- An operation byte of the map is never called reserved: what follows it is read by the operation's own readers. -/
theorem decodeHead_eq_reservedOp {c : Config} {b : Byte} {bs : List Byte} :
    decodeHead c (b :: bs) = .error (.reservedOp b) ↔ Op.ofByte b = none := by
  cases h : Op.ofByte b with
  | none => simp [decodeHead, h]
  | some op => simpa [decodeHead, h] using (isReader_decodeOperands c op).ne_reservedOp bs b

/-- Only the verdict on bytes left over is not given at the head. -/
theorem decode_eq_error {c : Config} {bytes : List Byte} {why : Invalid} (hwhy : why ≠ .trailing) :
    decode c bytes = .error why ↔ decodeHead c bytes = .error why := by
  rcases h : decodeHead c bytes with _ | ⟨i, _ | _⟩ <;> simp [decode, h, hwhy.symm]

/-- Settles O3: the head of a command is called reserved when the operation map has no row for it. -/
theorem reservedBytesSpellNoOperation : Obligations.ReservedBytesSpellNoOperation := by
  intro cfg op rest
  rw [decode_eq_error (why := .reservedOp op) nofun, decodeHead_eq_reservedOp, ofByte_eq_none]

/-! ### Commands cut short or followed by more bytes -/

/-- The operands cut before their end are short of bytes: a reader that got by with fewer would have left some over. -/
theorem decodeOperands_take {c : Config} {i : Instr} (h : i.wf c = true) {k : Nat}
    (hk : k < (encodeOperands c i).length) :
    decodeOperands c i.op ((encodeOperands c i).take k) = .error .truncated := by
  have hwhole : decodeOperands c i.op ((encodeOperands c i).take k ++ (encodeOperands c i).drop k) = .ok (i, []) := by
    simpa using decodeOperands_encodeOperands h []
  rcases (isReader_decodeOperands c i.op).of_append hwhole with hshort | ⟨rest, -, hrest⟩
  · exact hshort
  · have hdrop : (encodeOperands c i).length ≤ k := List.drop_eq_nil_iff.mp (List.append_eq_nil_iff.mp hrest).2
    omega

/-- Settles O4: the operands' reader is short of bytes, or the head leaves bytes over. -/
theorem cutOrOverlongCommandsAreInvalid : Obligations.CutOrOverlongCommandsAreInvalid := by
  refine fun cfg i h => ⟨fun k hpos hk => ?_, fun b more => ?_⟩
  · obtain ⟨k, rfl⟩ : ∃ j, k = j + 1 := ⟨k - 1, by omega⟩
    rw [decode_eq_error (why := .truncated) nofun, encode, List.take_succ_cons, decodeHead_byte_cons]
    exact decodeOperands_take h (by simpa [encode] using hk)
  · rw [decode, decodeHead_encode h]

end Sys2Proof
end

section
/-! The field values R87 names: the reader that meets one gives its verdict, whatever bytes stand after it. -/

namespace Sys2Proof

open Sys2Proof.Claims

variable {c : Config}

/-! ### Fields of any bytes -/

theorem takeLe_append (bs rest : List Byte) : takeLe bs.length (bs ++ rest) = .ok (leValue bs, rest) := by
  induction bs with
  | nil => rfl
  | cons b bs ih => simp [takeLe, ih, leValue]

theorem takeField_append_of_lt {w : Nat} {bs : List Byte} (hlen : bs.length = bytesOf w) (hv : leValue bs < 2 ^ w)
    (rest : List Byte) : takeField w (bs ++ rest) = .ok (leValue bs, rest) := by
  simp [takeField, ← hlen, takeLe_append, hv]

/-- A number that uses bits above its width is rejected (log entry 1). -/
theorem takeField_append_of_le {w : Nat} {bs : List Byte} (hlen : bs.length = bytesOf w) (hv : 2 ^ w ≤ leValue bs)
    (rest : List Byte) : takeField w (bs ++ rest) = .error .aboveWidth := by
  simp [takeField, ← hlen, takeLe_append, hv]

/-- A verdict of the operands' reader is the decoder's. -/
theorem decode_byte_cons_of_error {op : Op} {bs : List Byte} {why : Invalid} (hwhy : why ≠ .trailing)
    (h : decodeOperands c op bs = .error why) : decode c (op.byte :: bs) = .error why :=
  (decode_eq_error hwhy).mpr ((decodeHead_byte_cons c op bs).trans h)

/-! ### The bits of format A's `present` -/

theorem present_extractLsb_eq_zero {present : Byte} : present.extractLsb' 2 6 = 0 ↔ present.toNat < 4 := by
  have hlt := present.isLt
  rw [BitVec.toNat_eq, BitVec.extractLsb'_toNat, Nat.shiftRight_eq_div_pow]
  change present.toNat / 2 ^ 2 % 2 ^ 6 = 0 ↔ _
  omega

theorem present_getLsbD_zero {present : Byte} : present.getLsbD 0 = false ↔ present.toNat % 2 = 0 := by
  rw [BitVec.getLsbD, Nat.testBit_zero, decide_eq_false_iff_not]
  omega

/-! ### UUIDs of any width -/

theorem width_byte_iff {w : Byte} : w = 2 ∨ w = 4 ∨ w = 16 ↔ w.toNat = 2 ∨ w.toNat = 4 ∨ w.toNat = 16 := by bv_omega

theorem takeUuids_counted {uuid : List Byte} (h : WidthOk uuid) (n : Nat) (bs : List Byte) :
    takeUuids (n + 1) (counted uuid ++ bs) = takeUuids n bs >>= fun r => .ok (uuid :: r.1, r.2) := by
  have hlen : (lenByte uuid).toNat = uuid.length := lenByte_toNat (by rcases h with h | h | h <;> omega)
  have hwidth := width_byte_iff.mpr (by rwa [hlen])
  change takeUuids (n + 1) (lenByte uuid :: uuid ++ bs) = _
  simp only [takeUuids, List.cons_append, takeU8_cons, ok_bind, if_pos hwidth, hlen, takeBytes_append]

theorem takeUuids_append_of_error {uuids : List (List Byte)} (h : ∀ u ∈ uuids, WidthOk u) {n : Nat} {bs : List Byte}
    {why : Invalid} (herror : takeUuids n bs = .error why) :
    takeUuids (uuids.length + n) ((uuids.map counted).flatten ++ bs) = .error why := by
  induction uuids with
  | nil => simpa using herror
  | cons u us ih =>
    obtain ⟨hu, hus⟩ := List.forall_mem_cons.mp h
    simp [Nat.succ_add, takeUuids_counted hu, ih hus]

theorem takeUuids_of_width {w : Byte} (h : ¬ (w.toNat = 2 ∨ w.toNat = 4 ∨ w.toNat = 16)) (n : Nat) (bs : List Byte) :
    takeUuids (n + 1) (w :: bs) = .error (.uuidWidth w) := by
  simp only [takeUuids, takeU8_cons, ok_bind, if_neg (mt width_byte_iff.mp h)]

/-! ### The formats -/

theorem formatH_aboveWidth {mk : Nat → Instr} {handle : List Byte} (hlen : handle.length = bytesOf c.handleW)
    (hv : 2 ^ c.handleW ≤ leValue handle) (rest : List Byte) :
    formatH c mk (handle ++ rest) = .error .aboveWidth := by
  simp [formatH, takeField_append_of_le hlen hv]

theorem formatW_aboveWidth {handle : List Byte} (hlen : handle.length = bytesOf c.handleW)
    (hv : 2 ^ c.handleW ≤ leValue handle) (rest : List Byte) : formatW c (handle ++ rest) = .error .aboveWidth := by
  simp [formatW, takeField_append_of_le hlen hv]

theorem formatW_aboveRxMax {handle : List Byte} {len : Byte} (hlen : handle.length = bytesOf c.handleW)
    (hv : leValue handle < 2 ^ c.handleW) (hmax : c.rxMax < len.toNat) (char : Byte) (rest : List Byte) :
    formatW c (handle ++ char :: len :: rest) = .error .aboveRxMax := by
  simp [formatW, takeField_append_of_lt hlen hv, hmax]

theorem formatV_aboveWidth {mk : Millivolts → Nat → Instr} {now : List Byte} (hlen : now.length = bytesOf c.tsW)
    (hv : 2 ^ c.tsW ≤ leValue now) (lo hi : Byte) (rest : List Byte) :
    formatV c mk (lo :: hi :: now ++ rest) = .error .aboveWidth := by
  simp [formatV, takeU16, takeField_append_of_le hlen hv]

theorem formatS_aboveWidth {mk : List Byte → List Byte → Nat → Instr} {label color now : List Byte}
    (hlabel : label.length ≤ 255) (hcolor : color.length ≤ 255) (hlen : now.length = bytesOf c.tsW)
    (hv : 2 ^ c.tsW ≤ leValue now) (rest : List Byte) :
    formatS c mk (counted label ++ counted color ++ now ++ rest) = .error .aboveWidth := by
  change formatS c mk (lenBytes label ++ lenBytes color ++ now ++ rest) = _
  simp [formatS, takeLenBytes_lenBytes hlabel, takeLenBytes_lenBytes hcolor, takeField_append_of_le hlen hv]

theorem formatN_rstatAbove3 {rstat : Byte} (h : 3 < rstat.toNat) (rest : List Byte) :
    formatN (rstat :: rest) = .error .rstatAbove3 := by
  have hne : rstat ≠ 0 ∧ rstat ≠ 1 ∧ rstat ≠ 2 ∧ rstat ≠ 3 := by bv_omega
  simp only [formatN, takeU8_cons, ok_bind, RStat.ofByte, hne, if_false, error_bind]

theorem formatA_reservedPresent {present : Byte} (h : 4 ≤ present.toNat) (rest : List Byte) :
    formatA (present :: rest) = .error .reservedPresent := by
  have hreserved : present.extractLsb' 2 6 ≠ 0 := mt present_extractLsb_eq_zero.mp (by omega)
  simp only [formatA, takeU8_cons, ok_bind, if_pos hreserved]

theorem formatA_nameNotPresent {present nlen : Byte} (hreserved : present.toNat < 4) (habsent : present.toNat % 2 = 0)
    (hnlen : nlen ≠ 0) (flags : Byte) (rest : List Byte) :
    formatA (present :: flags :: nlen :: rest) = .error .nameNotPresent := by
  have hname : present.getLsbD 0 = false ∧ nlen ≠ 0 := ⟨present_getLsbD_zero.mpr habsent, hnlen⟩
  simp only [formatA, takeU8_cons, ok_bind, present_extractLsb_eq_zero.mpr hreserved, if_pos hname, ne_eq,
    not_true_eq_false, if_false]

theorem formatA_uuidWidth {present ucount w : Byte} {name : List Byte} {uuids : List (List Byte)}
    (hreserved : present.toNat < 4) (habsent : present.toNat % 2 = 0 → name = []) (hlen : name.length ≤ 255)
    (hwidths : ∀ u ∈ uuids, WidthOk u) (hcount : uuids.length < ucount.toNat)
    (hw : ¬ (w.toNat = 2 ∨ w.toNat = 4 ∨ w.toNat = 16)) (flags : Byte) (rest : List Byte) :
    formatA (present :: flags :: counted name ++ ucount :: (uuids.map counted).flatten ++ w :: rest) =
      .error (.uuidWidth w) := by
  have hname : ¬ (present.getLsbD 0 = false ∧ lenByte name ≠ 0) := fun ⟨hbit, hne⟩ =>
    hne ((lenByte_eq_zero hlen).mpr (habsent (present_getLsbD_zero.mp hbit)))
  obtain ⟨n, hn⟩ : ∃ n, ucount.toNat = uuids.length + (n + 1) := ⟨ucount.toNat - uuids.length - 1, by omega⟩
  have huuids := takeUuids_append_of_error hwidths (takeUuids_of_width hw n rest)
  rw [← hn] at huuids
  change formatA (present :: flags :: lenBytes name ++ ucount :: (uuids.map counted).flatten ++ w :: rest) = _
  simp only [formatA, lenBytes, List.cons_append, List.append_assoc, takeU8_cons, ok_bind,
    present_extractLsb_eq_zero.mpr hreserved, if_neg hname, takeBytes_lenByte hlen, huuids, error_bind, ne_eq,
    not_true_eq_false, if_false]

/-- Settles O5: each verdict is given where its field is read. -/
theorem reservedFieldValuesAreInvalid : Obligations.ReservedFieldValuesAreInvalid := by
  intro cfg
  refine ⟨fun handle rest char len hlen hv hmax => ?rxMax, fun op handle rest hop hlen hv => ?handle,
    fun now rest hlen hv => ⟨fun lo hi => ⟨?batt, ?agBatt⟩, fun label color hlabel hcolor => ?trysend⟩,
    fun present rest hpresent => ?present, fun present flags nlen rest hpresent hnlen => ?name,
    fun present flags name uuids ucount w rest hpresent habsent hname hwidths hcount h2 h4 h16 => ?width,
    fun rstat rest hrstat => ?rstat⟩
  case rxMax =>
    exact decode_byte_cons_of_error (op := .evWrite) nofun (formatW_aboveRxMax hlen hv hmax char rest)
  case handle =>
    simp only [List.mem_cons, List.not_mem_nil, or_false] at hop
    obtain rfl | rfl | rfl := hop
    · exact decode_byte_cons_of_error (op := .evConn) nofun (formatH_aboveWidth hlen hv rest)
    · exact decode_byte_cons_of_error (op := .evDisc) nofun (formatH_aboveWidth hlen hv rest)
    · exact decode_byte_cons_of_error (op := .evWrite) nofun (formatW_aboveWidth hlen hv rest)
  case batt => exact decode_byte_cons_of_error (op := .tmBatt) nofun (formatV_aboveWidth hlen hv lo hi rest)
  case agBatt => exact decode_byte_cons_of_error (op := .agBatt) nofun (formatV_aboveWidth hlen hv lo hi rest)
  case trysend =>
    exact decode_byte_cons_of_error (op := .tmTrysend) nofun (formatS_aboveWidth hlabel hcolor hlen hv rest)
  case present => exact decode_byte_cons_of_error (op := .advEnc) nofun (formatA_reservedPresent hpresent rest)
  case name =>
    obtain ⟨hreserved, habsent⟩ : present.toNat < 4 ∧ present.toNat % 2 = 0 := by
      rcases hpresent with rfl | rfl <;> decide
    exact decode_byte_cons_of_error (op := .advEnc) nofun (formatA_nameNotPresent hreserved habsent hnlen flags rest)
  case width =>
    exact decode_byte_cons_of_error (op := .advEnc) nofun
      (formatA_uuidWidth hpresent habsent hname hwidths hcount (by omega) flags rest)
  case rstat => exact decode_byte_cons_of_error (op := .agInit) nofun (formatN_rstatAbove3 hrstat rest)

end Sys2Proof
end

section
/-! Bytes that spell no operation of the port (R87, R88). -/

namespace Sys2Proof.Machine

open Sys2Proof.Claims

/-- A command served that spells no operation of its port is answered `invalid`, and no more. -/
theorem step_of_serves_invalid {s taken : State} {port : Port} {c : List Byte} {why : Invalid}
    (hserves : Serves s port c taken) (hdec : decodeOn s.cfg port c = .error why) :
    step s = .next (taken.respond port (.invalid why)) := by
  simp [step, select_of_serves hserves, cfg_of_serves hserves, hdec, answerInvalid]

/-- Settles O10: the two ways in which the decoder on a port rejects a command. -/
theorem invalidCommandsChangeNothing : Obligations.InvalidCommandsChangeNothing :=
  fun _ _ _ _ hserves =>
    ⟨fun _ hdec => step_of_serves_invalid hserves (by simp [decodeOn, hdec]),
      fun _ hdec hport => step_of_serves_invalid hserves (by simp [decodeOn, hdec, hport])⟩

end Sys2Proof.Machine
end

section
/-! The bytes of responses and output events (R84, R86, R92), and the published commands of the test vectors. -/

namespace Sys2Proof.Machine

open Sys2Proof.Claims

/-! ### Counted bytes -/

theorem countedBytes_eq_zipWith (vs : List (List Byte)) :
    countedBytes vs = lenByte vs :: (List.zipWith (fun len v => len :: v) (vs.map lenByte) vs).flatten := by
  rw [List.zipWith_map_left, List.zipWith_self]; rfl

theorem map_lenByte_toNat {vs : List (List Byte)} (h : ∀ v ∈ vs, v.length ≤ 255) :
    (vs.map lenByte).map (fun b => b.toNat) = vs.map List.length := by
  rw [List.map_map]
  exact List.map_congr_left fun v hv => lenByte_toNat (h v hv)

/-! ### Little-endian quantities -/

/-- The two bytes of a `u16`, put together again, are the quantity. -/
theorem append_le16 (v : BitVec 16) : v.extractLsb' 8 8 ++ v.extractLsb' 0 8 = v :=
  congrArg Prod.fst (Except.ok.inj (takeU16_le16 v []))

/-- An axis numerator is read back from its two bytes in two's complement (R84). -/
theorem toInt_ofInt_of_axis {n : Int} (hlow : -255 ≤ n) (hhigh : n ≤ 255) : (BitVec.ofInt 16 n).toInt = n := by
  rw [BitVec.toInt_ofInt, Int.bmod_eq_of_le] <;> omega

theorem leBytes_length (n v : Nat) : (leBytes n v).length = n := by
  induction n generalizing v with
  | zero => rfl
  | succ n ih => simp [leBytes, ih]

theorem leValue_leBytes (n v : Nat) : leValue (leBytes n v) = v % 256 ^ n := by
  have hread := takeLe_append (leBytes n v) []
  rw [leBytes_length, takeLe_leBytes] at hread
  exact (congrArg Prod.fst (Except.ok.inj hread)).symm

theorem leValue_leField {w v : Nat} (h : v < 2 ^ w) : leValue (leField w v) = v := by
  rw [leField, leValue_leBytes, Nat.mod_eq_of_lt (h.trans_le (two_pow_le_bytes w))]

/-! ### The statements -/

/-- Settles O7, one clause per result of R84. -/
theorem responseBytes : Obligations.ResponseBytes := by
  intro repr
  refine ⟨rfl, rfl, rfl, fun b => ⟨rfl, rfl⟩, fun n hlow hhigh => ?_, fun f => rfl, fun l hlen => ?_,
    fun vs hcount hlens => ?_, fun which => rfl⟩
  · exact ⟨_, _, rfl, by rw [append_le16, toInt_ofInt_of_axis hlow hhigh]⟩
  · exact ⟨lenByte l, lenByte_toNat hlen, rfl, rfl⟩
  · have hbytes := congrArg (fun bytes => some ((0x00 : Byte) :: bytes)) (countedBytes_eq_zipWith vs)
    exact ⟨lenByte vs, vs.map lenByte, lenByte_toNat hcount, map_lenByte_toNat hlens, hbytes, hbytes⟩

/-- Settles O8, one clause per event of R86. -/
theorem outputEventBytes : Obligations.OutputEventBytes := by
  intro handleW
  refine ⟨rfl, rfl, fun svc tx rx => rfl, fun p hlen => ?_, fun h data hh hlen => ?_⟩
  · exact ⟨lenByte p, lenByte_toNat hlen, rfl⟩
  · exact ⟨leField handleW h, lenByte data, leBytes_length _ h, leValue_leField hh, lenByte_toNat hlen, rfl⟩

/-- Settles O6: the decoder is run on each published command. -/
theorem publishedCommandsDecode : Obligations.PublishedCommandsDecode := by
  refine ⟨?_, ?_, ?_, ?_, ?_, ?_, ?_, ?_, ?_, ?_, ?_, ?_⟩ <;> decide

end Sys2Proof.Machine
end

section
/-! The codec operations (R100 to R107): what each completes with, as a function of its operands and the configuration
alone; the payload as a sequence of records; and the scan, which reads such a sequence back. -/

namespace Sys2Proof.Machine

open Sys2Proof.Claims

/-! ### The records of a payload -/

theorem record_eq_tlv (code : Byte) (value : List Byte) : record code value = tlv code value := by
  rw [record, tlv, Nat.add_comm]

theorem tlv_length (code : Byte) (value : List Byte) : (tlv code value).length = 2 + value.length := by
  rw [← record_eq_tlv, record_length]

@[simp] theorem tlvs_nil : tlvs [] = [] := rfl

@[simp] theorem tlvs_cons (r : Byte × List Byte) (rs : List (Byte × List Byte)) :
    tlvs (r :: rs) = tlv r.1 r.2 ++ tlvs rs := rfl

@[simp] theorem tlvs_append (rs rs' : List (Byte × List Byte)) : tlvs (rs ++ rs') = tlvs rs ++ tlvs rs' := by
  simp [tlvs]

/-- The records of R101, type and value, in "the fixed order flags, name, services, appearance". -/
def recordsOf (c : Config) (flags : Byte) (name : Option (List Byte)) (uuids : List (List Byte))
    (appearance : Option (BitVec 16)) : List (Byte × List Byte) :=
  [(c.tFlags, [flags])] ++ name.toList.map (fun n => (c.tName, n)) ++
    uuids.map (fun u => (codeOfWidth c u.length, u)) ++ appearance.toList.map fun v => (c.tAppearance, le16 v)

section Payload

variable (c : Config) (flags : Byte) (name : Option (List Byte)) (uuids : List (List Byte))
  (appearance : Option (BitVec 16))

theorem payloadOf_eq_tlvs :
    payloadOf c flags name uuids appearance = tlvs (recordsOf c flags name uuids appearance) := by
  have huuids : tlvs (uuids.map fun u => (codeOfWidth c u.length, u)) =
      (uuids.map fun u => tlv (codeOfWidth c u.length) u).flatten := by
    rw [tlvs, List.map_map]; rfl
  cases name <;> cases appearance <;> simp [payloadOf, recordsOf, huuids, tlv, le16]

/-- The size of R102 is the payload's length. -/
theorem payloadOf_length :
    (payloadOf c flags name uuids appearance).length = payloadSize name uuids appearance := by
  have huuids : (uuids.map fun u => tlv (codeOfWidth c u.length) u).flatten.length =
      (uuids.map fun u => 2 + u.length).sum := by
    simp [List.length_flatten, Function.comp_def, tlv_length]
  cases name <;> cases appearance <;>
    simp only [payloadOf, payloadSize, huuids, tlv_length, List.length_append, List.length_cons, List.length_nil]

variable {c flags name uuids appearance}

theorem length_le_of_mem_recordsOf (hname : ∀ n, name = some n → n.length ≤ 254) (huuids : ∀ u ∈ uuids, WidthOk u) :
    ∀ r ∈ recordsOf c flags name uuids appearance, r.2.length ≤ 254 := by
  simp only [recordsOf, List.mem_append, List.mem_singleton, List.mem_map, Option.mem_toList]
  rintro _ (((rfl | ⟨n, hn, rfl⟩) | ⟨u, hu, rfl⟩) | ⟨v, -, rfl⟩)
  · simp
  · exact hname n hn
  · rcases huuids u hu with h | h | h <;> simp [h]
  · simp [le16]

end Payload

/-! ### The encoder -/

theorem typeCodesDistinct_iff {c : Config} : typeCodesDistinct c = true ↔ c.typeCodes.Nodup := decide_eq_true_iff

theorem nameRecord_eq_ok {c : Config} {name : Option (List Byte)} {out : List Byte} :
    nameRecord c name = .ok out ↔
      (∀ n, name = some n → n.length ≤ 254) ∧ out = tlvs (name.toList.map fun n => (c.tName, n)) := by
  cases name with
  | none => simp [nameRecord, eq_comm]
  | some n =>
    by_cases hn : 254 < n.length
    · simp [nameRecord, hn]
    · simp [nameRecord, hn, record_eq_tlv, Nat.le_of_not_lt, eq_comm]

theorem uuidCode_eq_some {c : Config} {u : List Byte} {code : Byte} :
    uuidCode c u.length = some code ↔ WidthOk u ∧ code = codeOfWidth c u.length := by
  unfold uuidCode codeOfWidth WidthOk
  by_cases h2 : u.length = 2
  · simp [h2, eq_comm]
  by_cases h4 : u.length = 4
  · simp [h4, eq_comm]
  by_cases h16 : u.length = 16
  · simp [h16, eq_comm]
  · simp [h2, h4, h16]

theorem uuidRecords_eq_ok {c : Config} {uuids : List (List Byte)} {out : List Byte} :
    uuidRecords c uuids = .ok out ↔
      (∀ u ∈ uuids, WidthOk u) ∧ out = tlvs (uuids.map fun u => (codeOfWidth c u.length, u)) := by
  induction uuids generalizing out with
  | nil => simp [uuidRecords, eq_comm]
  | cons u us ih =>
    cases hcode : uuidCode c u.length with
    | none =>
      rw [uuidRecords, hcode]
      refine iff_of_false nofun fun ⟨hall, _⟩ => ?_
      nomatch hcode.symm.trans (uuidCode_eq_some.mpr ⟨(List.forall_mem_cons.mp hall).1, rfl⟩)
    | some code =>
      obtain ⟨hu, rfl⟩ := uuidCode_eq_some.mp hcode
      cases hus : uuidRecords c us with
      | error r =>
        rw [uuidRecords, hcode, hus]
        refine iff_of_false nofun fun ⟨hall, _⟩ => ?_
        nomatch hus.symm.trans (ih.mpr ⟨(List.forall_mem_cons.mp hall).2, rfl⟩)
      | ok later =>
        obtain ⟨hall, rfl⟩ := ih.mp hus
        have hwidths : ∀ v ∈ u :: us, WidthOk v := List.forall_mem_cons.mpr ⟨hu, hall⟩
        simp only [uuidRecords, hcode, hus, record_eq_tlv, Except.ok.injEq, List.map_cons, tlvs_cons]
        exact eq_comm.trans (and_iff_right hwidths).symm

theorem appearanceRecord_eq_tlvs (c : Config) (appearance : Option (BitVec 16)) :
    appearanceRecord c appearance = tlvs (appearance.toList.map fun v => (c.tAppearance, le16 v)) := by
  cases appearance <;> simp [appearanceRecord, record_eq_tlv]

/-- The encoder succeeds exactly within the operand part of its contract, and with the payload of R101. -/
theorem encodePayload_eq_ok {c : Config} {flags : Byte} {name : Option (List Byte)} {uuids : List (List Byte)}
    {appearance : Option (BitVec 16)} {p : List Byte} :
    encodePayload c flags name uuids appearance = .ok p ↔ c.typeCodes.Nodup ∧
      (∀ n, name = some n → n.length ≤ 254) ∧ (∀ u ∈ uuids, WidthOk u) ∧
      p = payloadOf c flags name uuids appearance := by
  rw [← typeCodesDistinct_iff]
  unfold encodePayload
  cases typeCodesDistinct c with
  | false => simp
  | true =>
    cases hn : nameRecord c name with
    | error r =>
      exact iff_of_false nofun fun ⟨_, hname, _⟩ => nomatch hn.symm.trans (nameRecord_eq_ok.mpr ⟨hname, rfl⟩)
    | ok nameOut =>
      obtain ⟨hname, rfl⟩ := nameRecord_eq_ok.mp hn
      cases hu : uuidRecords c uuids with
      | error r =>
        exact iff_of_false nofun fun ⟨_, _, huuids, _⟩ => nomatch hu.symm.trans (uuidRecords_eq_ok.mpr ⟨huuids, rfl⟩)
      | ok uuidOut =>
        obtain ⟨huuids, rfl⟩ := uuidRecords_eq_ok.mp hu
        have hp : record c.tFlags [flags] ++ tlvs (name.toList.map fun n => (c.tName, n)) ++
            tlvs (uuids.map fun u => (codeOfWidth c u.length, u)) ++ appearanceRecord c appearance =
              payloadOf c flags name uuids appearance := by
          simp [payloadOf_eq_tlvs, recordsOf, record_eq_tlv, appearanceRecord_eq_tlvs]
        simp only [if_true, hp, Except.ok.injEq]
        exact ⟨fun h => ⟨trivial, hname, huuids, h.symm⟩, fun ⟨_, _, _, h⟩ => h.symm⟩

/-! ### What each operation completes with -/

section Completion

variable {s t : State}

theorem answered_inj {port : Port} {r r' : Result} : answered s port r = answered s port r' ↔ r = r' := by
  simp [answered]

theorem exec_advEnc_eq_next {flags : Byte} {name : Option (List Byte)} {uuids : List (List Byte)}
    {appearance : Option (BitVec 16)} :
    exec (.advEnc flags name uuids appearance) s = .next t ↔ s.cfg.typeCodes.Nodup ∧
      (∀ n, name = some n → n.length ≤ 254) ∧ (∀ u ∈ uuids, WidthOk u) ∧ payloadSize name uuids appearance ≤ 255 ∧
      t = answered s .pPort (.payload (payloadOf s.cfg flags name uuids appearance)) := by
  change execAdvEnc flags name uuids appearance s = .next t ↔ _
  unfold execAdvEnc
  cases he : encodePayload s.cfg flags name uuids appearance with
  | error r =>
    exact iff_of_false nofun fun ⟨hcodes, hname, huuids, _⟩ =>
      nomatch he.symm.trans (encodePayload_eq_ok.mpr ⟨hcodes, hname, huuids, rfl⟩)
  | ok p =>
    obtain ⟨hcodes, hname, huuids, rfl⟩ := encodePayload_eq_ok.mp he
    rw [← payloadOf_length s.cfg flags]
    by_cases hlong : 255 < (payloadOf s.cfg flags name uuids appearance).length
    · simp only [hlong, if_true]
      exact iff_of_false nofun fun ⟨_, _, _, hfits, _⟩ => absurd hlong (Nat.not_lt.mpr hfits)
    · simp only [hlong, if_false, complete_eq_next]
      exact ⟨fun h => ⟨hcodes, hname, huuids, Nat.le_of_not_lt hlong, h⟩, fun ⟨_, _, _, _, h⟩ => h⟩

theorem completeDecoding_eq_answered {r : Result} :
    completeDecoding r s = .next t ↔ s.cfg.typeCodes.Nodup ∧ t = answered s .pPort r :=
  completeDecoding_eq_next.trans (and_congr_left' typeCodesDistinct_iff)

theorem exec_advDecf_eq_next {code : Byte} {payload : List Byte} :
    exec (.advDecf code payload) s = .next t ↔
      s.cfg.typeCodes.Nodup ∧ t = answered s .pPort (.values (decodeField payload code)) :=
  completeDecoding_eq_answered

theorem exec_advDecn_eq_next {payload : List Byte} :
    exec (.advDecn payload) s = .next t ↔
      s.cfg.typeCodes.Nodup ∧ t = answered s .pPort (.name (decodeName s.cfg payload)) :=
  completeDecoding_eq_answered

theorem exec_advDecs_eq_next {payload : List Byte} :
    exec (.advDecs payload) s = .next t ↔
      s.cfg.typeCodes.Nodup ∧ t = answered s .pPort (.uuids (decodeServices s.cfg payload)) :=
  completeDecoding_eq_answered

theorem exec_tmBuild_eq_next {label color : List Byte} :
    exec (.tmBuild label color) s = .next t ↔
      asciiLabel label = true ∧ t = answered s .pPort (.frame (buildFrame label color)) := by
  change execTmBuild label color s = .next t ↔ _
  unfold execTmBuild
  cases asciiLabel label with
  | false => simp
  | true => simp only [if_true, true_and]; exact complete_eq_next

end Completion

/-! ### The scan -/

theorem scanRecords_of_stopsScan {rest : List Byte} (h : StopsScan rest) (code : Byte) (fuel : Nat) :
    scanRecords code fuel rest = [] := by
  match fuel, rest with
  | 0, _ => rfl
  | _ + 1, [] => rfl
  | _ + 1, len :: more =>
    rcases h with hzero | hshort
    · simp [scanRecords, hzero]
    · simp [scanRecords, hshort]

/-- One round of the scan: a whole record is passed, and its value is given when its type is the one sought. -/
theorem scanRecords_tlv {value : List Byte} (h : value.length ≤ 254) (code type : Byte) (fuel : Nat)
    (more : List Byte) :
    scanRecords code (fuel + 1) (tlv type value ++ more) =
      if type = code then value :: scanRecords code fuel more else scanRecords code fuel more := by
  have hlen : (BitVec.ofNat 8 (value.length + 1)).toNat = value.length + 1 := by
    rw [BitVec.toNat_ofNat, Nat.mod_eq_of_lt (by omega)]
  have hpos : BitVec.ofNat 8 (value.length + 1) ≠ 0 := fun h0 => by simp [h0] at hlen
  simp only [tlv, List.cons_append, scanRecords, if_neg hpos, hlen]
  simp

/-- With fuel enough, the scan of whole records and a place where it stops gives the values of the type sought. -/
theorem scanRecords_tlvs {records : List (Byte × List Byte)} {rest : List Byte}
    (hlens : ∀ r ∈ records, r.2.length ≤ 254) (hrest : StopsScan rest) (code : Byte) {fuel : Nat}
    (hfuel : (tlvs records ++ rest).length ≤ fuel) :
    scanRecords code fuel (tlvs records ++ rest) = (records.filter fun r => r.1 == code).map Prod.snd := by
  induction records generalizing fuel with
  | nil => exact scanRecords_of_stopsScan hrest code fuel
  | cons r rs ih =>
    obtain ⟨hr, hrs⟩ := List.forall_mem_cons.mp hlens
    simp only [tlvs_cons, List.append_assoc] at hfuel ⊢
    rw [List.length_append, tlv_length] at hfuel
    obtain ⟨fuel, rfl⟩ : ∃ k, fuel = k + 1 := ⟨fuel - 1, by omega⟩
    rw [scanRecords_tlv hr, ih hrs (by omega)]
    by_cases hcode : r.1 = code <;> simp [hcode]

theorem decodeField_tlvs {records : List (Byte × List Byte)} {rest : List Byte}
    (hlens : ∀ r ∈ records, r.2.length ≤ 254) (hrest : StopsScan rest) (code : Byte) :
    decodeField (tlvs records ++ rest) code = (records.filter fun r => r.1 == code).map Prod.snd :=
  scanRecords_tlvs hlens hrest code le_rfl

/-- Where the scan does not stop, a whole record stands. -/
theorem exists_tlv_of_not_stopsScan {payload : List Byte} (h : ¬ StopsScan payload) :
    ∃ type value more, payload = tlv type value ++ more ∧ value.length ≤ 254 := by
  match payload with
  | [] => exact absurd trivial h
  | len :: more =>
    obtain ⟨hpos, hwhole⟩ := not_or.mp h
    have hpos : len.toNat ≠ 0 := fun h0 => hpos (BitVec.eq_of_toNat_eq h0)
    match more with
    | [] => exact absurd (Nat.pos_of_ne_zero hpos) hwhole
    | type :: bytes =>
      rw [List.length_cons] at hwhole
      have hvalue : (bytes.take (len.toNat - 1)).length + 1 = len.toNat := by rw [List.length_take]; omega
      refine ⟨type, bytes.take (len.toNat - 1), bytes.drop (len.toNat - 1), ?_, by omega⟩
      rw [tlv, hvalue, BitVec.ofNat_toNat, BitVec.setWidth_eq]
      simp

theorem exists_tlvs_append_stopsScan (payload : List Byte) :
    ∃ (records : List (Byte × List Byte)) (rest : List Byte),
      payload = tlvs records ++ rest ∧ (∀ r ∈ records, r.2.length ≤ 254) ∧ StopsScan rest := by
  induction hn : payload.length using Nat.strong_induction_on generalizing payload with
  | _ n ih =>
    by_cases hstop : StopsScan payload
    · exact ⟨[], payload, rfl, by simp, hstop⟩
    · obtain ⟨type, value, more, rfl, hvalue⟩ := exists_tlv_of_not_stopsScan hstop
      have hless : more.length < n := by rw [← hn, List.length_append, tlv_length]; omega
      obtain ⟨records, rest, rfl, hlens, hrest⟩ := ih more.length hless more rfl
      exact ⟨(type, value) :: records, rest, by simp, List.forall_mem_cons.mpr ⟨hvalue, hlens⟩, hrest⟩

/-! ### UUIDs -/

theorem pieces_eq_map_range (w n : Nat) (v : List Byte) :
    pieces w n v = (List.range n).map fun k => (v.drop (k * w)).take w := by
  induction n generalizing v with
  | zero => rfl
  | succ n ih =>
    have hdrop k : (v.drop w).drop (k * w) = v.drop ((k + 1) * w) := by
      rw [List.drop_drop, Nat.succ_mul, Nat.add_comm]
    rw [pieces, ih, List.range_succ_eq_map, List.map_cons, List.map_map, Nat.zero_mul, List.drop_zero]
    simp only [hdrop, Function.comp_def]

theorem pieces_of_length {w : Nat} {v : List Byte} (hw : 0 < w) (hv : v.length = w) : pieces w (v.length / w) v = [v] := by
  subst hv
  simp [Nat.div_self hw, pieces]

theorem decodeUuids_eq_flatten (payload : List Byte) (code : Byte) (w : Nat) :
    decodeUuids payload code w =
      ((decodeField payload code).map fun v => (List.range (v.length / w)).map fun k => (v.drop (k * w)).take w).flatten := by
  simp only [decodeUuids, List.flatMap_def, pieces_eq_map_range]

/-- Values that are one UUID each come out as they are. -/
theorem decodeUuids_of_length {payload : List Byte} {code : Byte} {w : Nat} (hw : 0 < w)
    (h : ∀ v ∈ decodeField payload code, v.length = w) : decodeUuids payload code w = decodeField payload code := by
  rw [decodeUuids, List.flatMap_congr fun v hv => pieces_of_length hw (h v hv), List.flatMap_singleton']

/-! ### Decoding an encoded payload -/

theorem tName_ne {c : Config} (hcodes : c.typeCodes.Nodup) : c.tFlags ≠ c.tName ∧ c.tAppearance ≠ c.tName := by
  simp only [Config.typeCodes, List.nodup_cons, List.mem_cons, not_or] at hcodes
  grind

/-- A UUID's type code is none of the other three. -/
theorem codeOfWidth_ne {c : Config} (hcodes : c.typeCodes.Nodup) (w : Nat) :
    c.tFlags ≠ codeOfWidth c w ∧ c.tName ≠ codeOfWidth c w ∧ c.tAppearance ≠ codeOfWidth c w := by
  simp only [Config.typeCodes, List.nodup_cons, List.mem_cons, not_or] at hcodes
  unfold codeOfWidth
  split_ifs <;> grind

/-- UUIDs of different widths have different type codes. -/
theorem codeOfWidth_eq_iff {c : Config} (hcodes : c.typeCodes.Nodup) {v w : Nat} (hv : v = 2 ∨ v = 4 ∨ v = 16)
    (hw : w = 2 ∨ w = 4 ∨ w = 16) : codeOfWidth c v = codeOfWidth c w ↔ v = w := by
  simp only [Config.typeCodes, List.nodup_cons, List.mem_cons, not_or] at hcodes
  rcases hv with rfl | rfl | rfl <;> rcases hw with rfl | rfl | rfl <;> simp [codeOfWidth] <;> grind

/-- Of records that all have one type, the values are all of that type or none is of another. -/
theorem values_of_one_type {α : Type} (type code : Byte) (value : α → List Byte) (xs : List α) :
    ((xs.map fun x => (type, value x)).filter fun r => r.1 == code).map Prod.snd =
      if type = code then xs.map value else [] := by
  by_cases h : type = code
  · simp [List.filter_map, Function.comp_def, h]
  · simp [List.filter_map, Function.comp_def, h, beq_false_of_ne h]

section RoundTrip

variable {c : Config} {name : Option (List Byte)} {uuids : List (List Byte)}
  (hname : ∀ n, name = some n → n.length ≤ 254) (huuids : ∀ u ∈ uuids, WidthOk u)
include hname huuids

/-- The scan of an encoded payload finds, under each type, the encoder's operand of that type. -/
theorem decodeField_payloadOf (flags : Byte) (appearance : Option (BitVec 16)) (code : Byte) :
    decodeField (payloadOf c flags name uuids appearance) code =
      (if c.tFlags = code then [[flags]] else []) ++ (if c.tName = code then name.toList else []) ++
        uuids.filter (fun u => codeOfWidth c u.length == code) ++
          (if c.tAppearance = code then appearance.toList.map le16 else []) := by
  have hflags : ([(c.tFlags, [flags])].filter fun r => r.1 == code).map Prod.snd =
      if c.tFlags = code then [[flags]] else [] := values_of_one_type c.tFlags code id [[flags]]
  have hnames : ((name.toList.map fun n => (c.tName, n)).filter fun r => r.1 == code).map Prod.snd =
      if c.tName = code then name.toList else [] := by
    simpa using values_of_one_type c.tName code id name.toList
  have hservices : ((uuids.map fun u => (codeOfWidth c u.length, u)).filter fun r => r.1 == code).map Prod.snd =
      uuids.filter fun u => codeOfWidth c u.length == code := by
    rw [List.filter_map, List.map_map]
    exact List.map_id _
  calc decodeField (payloadOf c flags name uuids appearance) code
    _ = decodeField (tlvs (recordsOf c flags name uuids appearance) ++ []) code := by
      rw [List.append_nil, payloadOf_eq_tlvs]
    _ = ((recordsOf c flags name uuids appearance).filter fun r => r.1 == code).map Prod.snd :=
      decodeField_tlvs (length_le_of_mem_recordsOf hname huuids) (rest := []) trivial code
    _ = _ := by
      simp only [recordsOf, List.filter_append, List.map_append, hflags, hnames, hservices, values_of_one_type]

theorem decodeName_payloadOf (hcodes : c.typeCodes.Nodup) (flags : Byte) (appearance : Option (BitVec 16)) :
    decodeName c (payloadOf c flags name uuids appearance) = name.getD [] := by
  have hservices : uuids.filter (fun u => codeOfWidth c u.length == c.tName) = [] :=
    List.filter_eq_nil_iff.mpr fun u _ => by simpa using (codeOfWidth_ne hcodes u.length).2.1.symm
  obtain ⟨hflags, happearance⟩ := tName_ne hcodes
  rw [decodeName, decodeField_payloadOf hname huuids, if_neg hflags, if_pos rfl, if_neg happearance, hservices]
  cases name <;> rfl

/-- The values under the type code of a width are the UUIDs of that width. -/
theorem decodeUuids_payloadOf (hcodes : c.typeCodes.Nodup) (flags : Byte) (appearance : Option (BitVec 16))
    {w : Nat} (hw : w = 2 ∨ w = 4 ∨ w = 16) :
    decodeUuids (payloadOf c flags name uuids appearance) (codeOfWidth c w) w = uuids.filter fun u => u.length == w := by
  have hvalues : decodeField (payloadOf c flags name uuids appearance) (codeOfWidth c w) =
      uuids.filter fun u => u.length == w := by
    obtain ⟨hflags, hnames, happearance⟩ := codeOfWidth_ne hcodes w
    rw [decodeField_payloadOf hname huuids, if_neg hflags, if_neg hnames, if_neg happearance, List.append_nil]
    exact List.filter_congr fun u hu => by simp [codeOfWidth_eq_iff hcodes (huuids u hu) hw]
  rw [decodeUuids_of_length (by omega) (by simp [hvalues]), hvalues]

theorem decodeServices_payloadOf (hcodes : c.typeCodes.Nodup) (flags : Byte) (appearance : Option (BitVec 16)) :
    decodeServices c (payloadOf c flags name uuids appearance) =
      uuids.filter (fun u => u.length == 2) ++ uuids.filter (fun u => u.length == 4) ++
        uuids.filter (fun u => u.length == 16) := by
  have hgroup {w : Nat} := decodeUuids_payloadOf hname huuids hcodes flags appearance (w := w)
  exact congr_arg₂ _ (congr_arg₂ _ (hgroup (.inl rfl)) (hgroup (.inr (.inl rfl)))) (hgroup (.inr (.inr rfl)))

end RoundTrip

/-! ### The statements -/

/-- Settles O47: the encoder completed, so the payload is its records, and the decoders read their operands back. -/
theorem decodingAnEncodedPayloadRoundTrips : Obligations.DecodingAnEncodedPayloadRoundTrips := by
  intro flags name uuids appearance p s t hcodes h hcfg
  obtain ⟨-, hname, huuids, -, hanswer⟩ := exec_advEnc_eq_next.mp h
  obtain rfl := Result.payload.inj (answered_inj.mp hanswer)
  rw [← hcfg] at hcodes ⊢
  exact ⟨exec_advDecn_eq_next.mpr ⟨hcodes, by rw [decodeName_payloadOf hname huuids hcodes]⟩,
    exec_advDecs_eq_next.mpr ⟨hcodes, by rw [decodeServices_payloadOf hname huuids hcodes]⟩⟩

/-- Settles O17: what each of the five completes with depends on its operands and the configuration alone. -/
theorem codecOperationsArePure : Obligations.CodecOperationsArePure := by
  intro i s t u hi hcfg h
  cases i with
  | advEnc =>
    obtain ⟨hcodes, hname, huuids, hsize, rfl⟩ := exec_advEnc_eq_next.mp h
    exact ⟨_, rfl, exec_advEnc_eq_next.mpr ⟨hcfg ▸ hcodes, hname, huuids, hsize, by rw [hcfg]⟩⟩
  | advDecf =>
    obtain ⟨hcodes, rfl⟩ := exec_advDecf_eq_next.mp h
    exact ⟨_, rfl, exec_advDecf_eq_next.mpr ⟨hcfg ▸ hcodes, rfl⟩⟩
  | advDecn =>
    obtain ⟨hcodes, rfl⟩ := exec_advDecn_eq_next.mp h
    exact ⟨_, rfl, exec_advDecn_eq_next.mpr ⟨hcfg ▸ hcodes, by rw [hcfg]⟩⟩
  | advDecs =>
    obtain ⟨hcodes, rfl⟩ := exec_advDecs_eq_next.mp h
    exact ⟨_, rfl, exec_advDecs_eq_next.mpr ⟨hcfg ▸ hcodes, by rw [hcfg]⟩⟩
  | tmBuild =>
    obtain ⟨hascii, rfl⟩ := exec_tmBuild_eq_next.mp h
    exact ⟨_, rfl, exec_tmBuild_eq_next.mpr ⟨hascii, rfl⟩⟩
  | evConn | evDisc | evWrite | cfWrite | lnkIsconn | lnkSend | cfRawaxis | cfAxis | cfButton | cfServo | tmTrysend
  | tmBatt | agInit | agIsconn | agGetaxis | agGetbtn | agGetservo | agBatt => simp [Instr.op] at hi

/-- Settles O43: within the contract the encoder succeeds, and each record's length adds up to R102's size. -/
theorem encodedPayloadIsItsRecords : Obligations.EncodedPayloadIsItsRecords :=
  fun _ _ _ _ _ hcodes hname huuids hsize =>
    ⟨exec_advEnc_eq_next.mpr ⟨hcodes, hname, huuids, hsize, rfl⟩, payloadOf_length ..⟩

/-- Settles O44: the payload is cut into records first, and the scan of them is `decodeField_tlvs`. -/
theorem decodeFieldReturnsTheMatchingValues : Obligations.DecodeFieldReturnsTheMatchingValues := by
  intro code payload s hcodes
  obtain ⟨records, rest, rfl, hlens, hrest⟩ := exists_tlvs_append_stopsScan payload
  exact ⟨records, rest, rfl, hlens, hrest,
    exec_advDecf_eq_next.mpr ⟨hcodes, by rw [decodeField_tlvs hlens hrest]⟩⟩

/-- Settles O45: the name is the head of the values of type T_NAME. -/
theorem decodeNameIsTheFirstNameRecord : Obligations.DecodeNameIsTheFirstNameRecord := by
  intro payload s hcodes
  refine ⟨_, _, exec_advDecf_eq_next.mpr ⟨hcodes, rfl⟩, fun h => ?_, fun v more h => ?_,
    exec_advDecn_eq_next.mpr ⟨hcodes, rfl⟩⟩
  · rw [decodeName, h, List.headD_nil]
  · rw [decodeName, h, List.headD_cons]

/-- Settles O46: each width's group is its field's values, cut by `decodeUuids_eq_flatten`. -/
theorem decodeServicesCutsEachValueIntoUuids : Obligations.DecodeServicesCutsEachValueIntoUuids := by
  intro payload s hcodes
  refine ⟨_, _, _, exec_advDecf_eq_next.mpr ⟨hcodes, rfl⟩, exec_advDecf_eq_next.mpr ⟨hcodes, rfl⟩,
    exec_advDecf_eq_next.mpr ⟨hcodes, rfl⟩, exec_advDecs_eq_next.mpr ⟨hcodes, ?_⟩⟩
  simp only [decodeServices, decodeUuids_eq_flatten]

end Sys2Proof.Machine
end

section
/-! The link-server operations (R121 to R128): what each leaves, on the connection set as a set and on the frame of a
written value, and which operations write those two registers at all. -/

namespace Sys2Proof.Machine

open Sys2Proof.Claims

/-! ### The connection set -/

/-- A canonical connection set holds no handle twice. -/
theorem nodup_of_connCanonical {conn : List Nat} (hc : connCanonical conn = true) : conn.Nodup :=
  List.Pairwise.nodup (of_decide_eq_true hc)

/-- Connecting a handle that is present changes nothing (R121): no handle before it in the ascending list is above it. -/
theorem connInsert_of_mem {h : Nat} {conn : List Nat} (hc : connCanonical conn = true) (hmem : h ∈ conn) :
    connInsert h conn = conn := by
  simp only [connCanonical, decide_eq_true_eq] at hc
  induction conn with
  | nil => cases hmem
  | cons g gs ih =>
    obtain ⟨hbelow, hgs⟩ := List.pairwise_cons.mp hc
    rcases List.mem_cons.mp hmem with rfl | hmem
    · simp [connInsert]
    · have hlt := hbelow h hmem
      simp [connInsert, Nat.not_lt_of_gt hlt, Nat.ne_of_gt hlt, ih hmem hgs]

/-- Disconnecting a handle that is absent changes nothing (R122). -/
theorem connErase_of_not_mem {h : Nat} {conn : List Nat} (hmem : h ∉ conn) : connErase h conn = conn :=
  List.filter_eq_self.mpr fun _ hg => decide_eq_true (ne_of_mem_of_not_mem hg hmem)

/-- The derived boolean of R25: some handle is present. -/
theorem connected_iff {s : State} : s.connected = true ↔ ∃ h, h ∈ s.conn := by
  simp only [State.connected, Bool.not_eq_true', List.isEmpty_eq_false_iff_exists_mem]

/-! ### The frame of a written value -/

/-- The model's frame of a written value is the one the statements speak of (R72, R141). -/
theorem frameAfter_frameOf (raw : List Byte) : FrameAfter raw (frameOf raw) :=
  ⟨fun h => if_pos (accepted_iff.mpr h), fun h => if_neg fun haccepted => h (accepted_iff.mp haccepted)⟩

/-! ### What each operation leaves -/

section Execution

variable (s : State)

theorem exec_evConn (h : Nat) :
    exec (.evConn h) s = .next (answered { s with conn := connInsert h s.conn } .ePort .done) := rfl

theorem exec_evDisc (h : Nat) :
    exec (.evDisc h) s =
      .next (answered { s with conn := connErase h s.conn, oport := s.oport ++ [.advertise s.advp] } .ePort .done) := rfl

theorem exec_cfWrite (raw : List Byte) :
    exec (.cfWrite raw) s = .next (answered { s with frame := frameOf raw } .ePort .done) := rfl

theorem exec_evWrite_rx (h : Nat) (value : List Byte) :
    exec (.evWrite h .rx value) s = .next (answered { s with frame := frameOf value } .ePort .done) := rfl

theorem exec_evWrite_of_ne_rx {char : CharSel} (hchar : char ≠ .rx) (h : Nat) (value : List Byte) :
    exec (.evWrite h char value) s = .next (answered s .ePort .done) := by
  cases char with
  | rx => exact absurd rfl hchar
  | tx | other => rfl

theorem exec_lnkSend (bytes : List Byte) :
    exec (.lnkSend bytes) s =
      .next (answered { s with
        oport := s.oport ++ (arrange (Config.notifyPlace s.free) s.conn).map fun h => .notify h bytes,
        free := s.free + 1 } .pPort .done) := rfl

theorem exec_agIsconn : exec .agIsconn s = exec .lnkIsconn s := rfl

end Execution

/-! ### The writers of the frame and of the connection set -/

section Writers

variable {i : Instr} {s t : State}

/-- Only an adopted value writes the frame (R198). -/
theorem writes_of_frame_ne (h : exec i s = .next t) (hne : t.frame ≠ s.frame) :
    (∃ raw, i = .cfWrite raw) ∨ ∃ h v, i = .evWrite h .rx v := by
  cases exec_completes h with
  | frameWritten raw hi => exact hi.imp (fun hi => ⟨raw, hi⟩) fun ⟨handle, hi⟩ => ⟨handle, raw, hi⟩
  | replied | connected | disconnected | notified | sent | constructed | constructionFailed => exact absurd rfl hne

/-- Only a connect or a disconnect writes the connection set (R198). -/
theorem connects_of_conn_ne (h : exec i s = .next t) (hne : t.conn ≠ s.conn) :
    (∃ h, i = .evConn h) ∨ ∃ h, i = .evDisc h := by
  cases exec_completes h with
  | connected handle hi => exact .inl ⟨handle, hi⟩
  | disconnected handle hi => exact .inr ⟨handle, hi⟩
  | replied | frameWritten | notified | sent | constructed | constructionFailed => exact absurd rfl hne

end Writers

/-! ### The statements -/

/-- Settles O18: neither family holds a writer of the other's register. -/
theorem frameAndConnectionSetAreIndependent : Obligations.FrameAndConnectionSetAreIndependent := by
  refine fun i s t h => ⟨fun hi => ?_, fun hi => ?_⟩
  · by_contra hne
    rcases writes_of_frame_ne h hne with ⟨raw, rfl⟩ | ⟨handle, value, rfl⟩ <;> simp [Instr.op] at hi
  · by_contra hne
    rcases connects_of_conn_ne h hne with ⟨handle, rfl⟩ | ⟨handle, rfl⟩ <;> simp [Instr.op] at hi

/-- Settles O27: the insertion into the ascending list is the insertion into the set. -/
theorem connectAddsTheHandle : Obligations.ConnectAddsTheHandle := fun h s =>
  ⟨connInsert h s.conn, exec_evConn s h, fun _ => mem_connInsert, fun hc =>
    ⟨nodup_of_connCanonical (connInsert_canonical hc), connInsert_of_mem hc⟩⟩

/-- Settles O28: the ADVERTISE does not ask whether the handle was present. -/
theorem disconnectRemovesTheHandleAndReadvertises : Obligations.DisconnectRemovesTheHandleAndReadvertises := fun h s =>
  ⟨connErase h s.conn, exec_evDisc s h, fun _ => mem_connErase, connErase_of_not_mem⟩

/-- Settles O29: on RX both operations leave the frame of the value written. -/
theorem writeEventIsRoutedByCharacteristic : Obligations.WriteEventIsRoutedByCharacteristic := by
  refine fun h char value s => ⟨?_, fun hchar => exec_evWrite_of_ne_rx s hchar h value⟩
  rintro rfl
  exact ⟨frameOf value, frameAfter_frameOf value, exec_evWrite_rx s h value, exec_cfWrite s value⟩

/-- Settles O30: the order the free places give is a permutation of the set. -/
theorem sendNotifiesEveryConnectedHandle : Obligations.SendNotifiesEveryConnectedHandle := fun bytes s =>
  ⟨arrange (Config.notifyPlace s.free) s.conn, s.free + 1, arrange_perm _ _, exec_lnkSend s bytes⟩

/-- Settles O31: both operations report the derived boolean CONNECTED. -/
theorem connectionReportsNonEmptySet : Obligations.ConnectionReportsNonEmptySet := by
  rintro i s (rfl | rfl)
  · exact ⟨s.connected, exec_lnkIsconn s, connected_iff⟩
  · exact ⟨s.connected, (exec_agIsconn s).trans (exec_lnkIsconn s), connected_iff⟩

end Sys2Proof.Machine
end

section
/-! The control-frame operations (R141 to R151): what each accessor reads off the frame, the laws of the axis value, and
what the accessors read once an unaccepted value was written. -/

namespace Sys2Proof.Machine

open Sys2Proof.Claims

/-! ### The link agent's accessors (R183) -/

section Agent

variable (s : State)

theorem exec_agGetaxis (i : Byte) : exec (.agGetaxis i) s = exec (.cfAxis i) s := rfl

theorem exec_agGetbtn (n : Byte) : exec (.agGetbtn n) s = exec (.cfButton n) s := rfl

theorem exec_agGetservo : exec .agGetservo s = exec .cfServo s := rfl

end Agent

/-! ### The fields of the frame (R142) -/

section Fields

variable {s : State} {k : Nat} {d : Byte}

theorem field_of_lt (h : k < s.frame.length) : s.field k d = s.frame[k] := List.getD_eq_getElem _ _ h

theorem field_of_le (h : s.frame.length ≤ k) : s.field k d = d := List.getD_eq_default _ _ h

theorem field_eq_fieldOr : s.field k d = fieldOr s k d := by
  unfold fieldOr
  split
  · exact field_of_lt ‹_›
  · exact field_of_le (Nat.le_of_not_lt ‹_›)

end Fields

/-! ### What the accessors read -/

section Accessors

variable {s : State}

theorem rawAxis_of_le_three {i : Byte} (h : i.toNat ≤ 3) : s.rawAxis i = s.field (1 + i.toNat) 127 :=
  if_neg (by simpa [AXIS_COUNT] using Nat.lt_succ_of_le h)

theorem rawAxis_of_three_lt {i : Byte} (h : 3 < i.toNat) : s.rawAxis i = 127 := if_pos h

theorem rawAxis_eq_rawAxisOf (i : Byte) : s.rawAxis i = rawAxisOf s i := by
  unfold rawAxisOf
  split
  · rw [rawAxis_of_le_three ‹_›, field_eq_fieldOr]
  · exact rawAxis_of_three_lt (Nat.lt_of_not_le ‹_›)

theorem buttonMask_toNat : s.buttonMask.toNat = (fieldOr s 5 0).toNat + 256 * (fieldOr s 6 0).toNat := by
  rw [← field_eq_fieldOr, ← field_eq_fieldOr, State.buttonMask, BitVec.toNat_append,
    ← Nat.shiftLeft_add_eq_or_of_lt (BitVec.isLt _), Nat.shiftLeft_eq]
  omega

theorem button_iff {n : Byte} : s.button n = true ↔ n.toNat ≤ 15 ∧ s.buttonMask.toNat / 2 ^ n.toNat % 2 = 1 := by
  unfold State.button BUTTON_COUNT
  split
  · simp only [Bool.false_eq_true, false_iff]
    omega
  · rw [BitVec.getLsbD, Nat.testBit_eq_decide_div_mod_eq, decide_eq_true_iff]
    omega

/-- The lower bound of a clamp from 0 never acts (R148). -/
theorem clamp_zero (v hi : Nat) : clamp v 0 hi = min v hi := by
  unfold clamp
  split
  · omega
  · split <;> omega

theorem servo_of_le (h : s.frame.length ≤ 7) : s.servo = 90 := if_pos h

theorem servo_toNat_of_lt (h : 7 < s.frame.length) : s.servo.toNat = min s.frame[7].toNat 180 := by
  rw [State.servo, State.flen, if_neg (Nat.not_le_of_lt h), field_of_lt h, SERVO_MIN, SERVO_MAX, clamp_zero,
    BitVec.toNat_ofNat]
  omega

end Accessors

/-! ### The axis value (R145, R146) -/

section AxisValue

variable {a b : Byte}

theorem axisNum_centre : axisNum 127 = 0 := rfl

theorem axisNum_of_ne_centre (h : a ≠ 127) : axisNum a = 2 * (a.toNat : ℤ) - 255 := if_neg h

theorem axisNum_div (r : Byte) :
    (axisNum r : ℚ) / 255 = if r = 127 then 0 else (r.toNat : ℚ) / (255 / 2) - 1 := by
  split
  · next h => rw [h, axisNum_centre]; norm_num
  · next h => simpa [AXIS_DIVISOR] using axisNum_formula h

/-- The two cases of the axis value in the number the byte holds. -/
theorem axisNum_cases (r : Byte) :
    (r.toNat = 127 ∧ axisNum r = 0) ∨ (r.toNat ≠ 127 ∧ axisNum r = 2 * (r.toNat : ℤ) - 255) := by
  by_cases h : r = 127
  · exact .inl ⟨congrArg BitVec.toNat h, h ▸ axisNum_centre⟩
  · exact .inr ⟨fun e => h (BitVec.eq_of_toNat_eq e), axisNum_of_ne_centre h⟩

theorem axisNum_bounds (r : Byte) : -255 ≤ axisNum r ∧ axisNum r ≤ 255 := by
  have hcases := axisNum_cases r
  have hlt := r.isLt
  omega

theorem axisNum_lt_of_lt (h : a.toNat < b.toNat) : axisNum a < axisNum b := by
  have ha := axisNum_cases a
  have hb := axisNum_cases b
  omega

theorem axisNum_of_add_eq (h : a.toNat + b.toNat = 255) (ha : a ≠ 127) (hb : b ≠ 127) : axisNum b = -axisNum a := by
  rw [axisNum_of_ne_centre ha, axisNum_of_ne_centre hb]
  omega

/-- The answers of CF.RAWAXIS and CF.AXIS in one state are a raw byte and its axis value. -/
theorem eq_axisNum_of_answers {s u : State} {i : Byte} {m : Int}
    (hraw : exec (.cfRawaxis i) s = .next (answered s .pPort (.raw a))) (haxis : exec (.cfAxis i) s = .next u)
    (hu : u = answered s .pPort (.axis m)) : m = axisNum a := by
  subst hu
  simp only [exec_cfRawaxis, exec_cfAxis, Host.Outcome.next.injEq, answered_inj, Result.raw.injEq, Result.axis.injEq]
    at hraw haxis
  rw [← haxis, hraw]

end AxisValue

/-! ### After an unaccepted write (R150 row (b), R151) -/

theorem exec_of_not_accepted {raw : List Byte} {i : Instr} (hraw : ¬ Accepted raw)
    (hi : i = .cfWrite raw ∨ ∃ h, i = .evWrite h .rx raw) (s : State) :
    exec i s = .next (answered { s with frame := neutral } .ePort .done) := by
  rw [← (frameAfter_frameOf raw).2 hraw]
  rcases hi with rfl | ⟨h, rfl⟩
  · exact exec_cfWrite s raw
  · exact exec_evWrite_rx s h raw

section Neutral

variable {s : State} (hs : s.frame = neutral)
include hs

theorem rawAxis_of_neutral (i : Byte) : s.rawAxis i = 127 := by
  rcases Nat.lt_or_ge 3 i.toNat with hi | hi
  · exact rawAxis_of_three_lt hi
  · rw [rawAxis_of_le_three hi, State.field, hs]
    interval_cases i.toNat <;> rfl

theorem button_of_neutral (n : Byte) : s.button n = false := by
  have hmask : s.buttonMask = 0 := by rw [State.buttonMask, State.field, State.field, hs]; rfl
  simp [State.button, hmask]

theorem servo_of_neutral : s.servo = 0 := by rw [State.servo, State.flen, State.field, hs]; rfl

end Neutral

/-! ### The statements -/

/-- Settles O32: the value is accepted exactly when its first byte is 1. -/
theorem frameWriteAdoptsOrGoesNeutral : Obligations.FrameWriteAdoptsOrGoesNeutral := by
  intro raw s
  have haccepted : raw.head? = some 1 ↔ Accepted raw := List.head?_eq_some_iff
  refine ⟨fun h => ?_, fun h => exec_of_not_accepted (mt haccepted.mpr h) (.inl rfl) s⟩
  rw [exec_cfWrite, (frameAfter_frameOf raw).1 (haccepted.mp h)]

/-- Settles O33: above 3 no field is read, and up to 3 field `1 + i` with its default. -/
theorem rawAxisReadsItsByteOrCentre : Obligations.RawAxisReadsItsByteOrCentre := by
  intro i s
  rw [exec_cfRawaxis]
  refine ⟨fun hlen hi => by rw [rawAxis_of_le_three hi, field_of_lt hlen], fun h => ?_⟩
  rcases Nat.lt_or_ge 3 i.toNat with hi | hi
  · rw [rawAxis_of_three_lt hi]
  · rw [rawAxis_of_le_three hi, field_of_le (h.resolve_left (Nat.not_lt_of_le hi))]

/-- Settles O34: both operations report the axis value of the raw byte. -/
theorem axisIsTheNormalisedRawByte : Obligations.AxisIsTheNormalisedRawByte := by
  intro idx i s hi
  refine ⟨axisNum (s.rawAxis idx), ?_, rawAxis_eq_rawAxisOf (s := s) idx ▸ axisNum_div _⟩
  rcases hi with rfl | rfl
  · exact exec_cfAxis idx s
  · exact (exec_agGetaxis s idx).trans (exec_cfAxis idx s)

/-- Settles O35: the two answers in a state are a raw byte and its axis value, and the laws are that value's. -/
theorem axisValueIsMonotoneAndOdd : Obligations.AxisValueIsMonotoneAndOdd := by
  intro s t u v i j a b m n hrawS haxisS hu hrawT haxisT hv
  obtain rfl := eq_axisNum_of_answers hrawS haxisS hu
  obtain rfl := eq_axisNum_of_answers hrawT haxisT hv
  obtain ⟨hlow, hhigh⟩ := axisNum_bounds a
  refine ⟨⟨hlow, hhigh, fun ha => ⟨axisNum_of_ne_centre ha, ?_⟩, fun ha => ha ▸ axisNum_centre⟩,
    axisNum_lt_of_lt, axisNum_of_add_eq⟩
  rw [axisNum_of_ne_centre ha]
  omega

/-- Settles O36: both operations report a bit of the mask composed of fields 5 and 6. -/
theorem buttonIsItsMaskBit : Obligations.ButtonIsItsMaskBit := by
  intro n i s hi
  refine ⟨s.button n, ?_, buttonMask_toNat (s := s) ▸ button_iff⟩
  rcases hi with rfl | rfl
  · exact exec_cfButton n s
  · exact (exec_agGetbtn s n).trans (exec_cfButton n s)

/-- Settles O37: both operations report the servo angle, whose clamp never acts from below. -/
theorem servoIsClampedOrCentred : Obligations.ServoIsClampedOrCentred := by
  intro i s hi
  refine ⟨s.servo, ?_, servo_of_le, servo_toNat_of_lt⟩
  rcases hi with rfl | rfl
  · exact exec_cfServo s
  · exact (exec_agGetservo s).trans (exec_cfServo s)

/-- Settles O38: the write leaves the neutral frame, whose fields 1 to 4 are the centre and 5 to 7 are 0. -/
theorem unacceptedWriteGoesNeutral : Obligations.UnacceptedWriteGoesNeutral := by
  intro raw i s hraw hi
  refine ⟨_, exec_of_not_accepted hraw hi s, rfl, fun idx => ⟨?_, ?_⟩, fun n => ?_, ?_⟩
  · rw [exec_cfRawaxis, rawAxis_of_neutral rfl]
  · rw [exec_cfAxis, rawAxis_of_neutral rfl, axisNum_centre]
  · rw [exec_cfButton, button_of_neutral rfl]
  · rw [exec_cfServo, servo_of_neutral rfl]

end Sys2Proof.Machine
end

section
/-! The rate-limited send (R164, R165): its three outcomes, when a telemetry send reports that it sent, and the recorded
time, which no step takes back. -/

namespace Sys2Proof.Machine

open Sys2Proof.Claims

/-! ### The outcomes of a send (R164) -/

theorem asciiLabel_iff {label : List Byte} : asciiLabel label = true ↔ ∀ b ∈ label, b.toNat < 0x80 := by
  simp [asciiLabel]

theorem asciiLabel_eq_false_iff {label : List Byte} : asciiLabel label = false ↔ ∃ b ∈ label, 0x80 ≤ b.toNat := by
  simp [asciiLabel]

theorem suppressed_iff {s : State} {now : Nat} :
    s.suppressed now = true ↔ s.lsValid = true ∧ now < s.lastSend + 500 := by
  rw [State.suppressed, Bool.and_eq_true, decide_eq_true_iff, TLM_MIN_INTERVAL_MS]

theorem suppressed_eq_false_iff {s : State} {now : Nat} :
    s.suppressed now = false ↔ s.lsValid = false ∨ s.lastSend + 500 ≤ now := by
  rw [← Bool.not_eq_true, suppressed_iff, not_and_or, Bool.not_eq_true, Nat.not_lt]

section Outcomes

variable {label color : List Byte} {now : Nat} {s : State}

theorem exec_tmTrysend : exec (.tmTrysend label color now) s = sendTelemetry label color now s := rfl

/-- The refusal is decided on the label alone, before the rate test. -/
theorem sendTelemetry_of_not_ascii (hascii : asciiLabel label = false) :
    sendTelemetry label color now s = .refused .nonAsciiLabel := by
  simp [sendTelemetry, hascii]

theorem sendTelemetry_of_ascii (hascii : asciiLabel label = true) :
    sendTelemetry label color now s = trySend label color now s := if_pos hascii

theorem trySend_of_suppressed (hlimit : s.suppressed now = true) :
    trySend label color now s = .next (answered s .pPort (.bool false)) := if_pos hlimit

theorem trySend_of_not_suppressed (hlimit : s.suppressed now = false) :
    trySend label color now s =
      .next (answered { s with
        oport := s.oport ++
          (arrange (Config.notifyPlace s.free) s.conn).map fun h => .notify h (buildFrame label color),
        free := s.free + 1, lastSend := now, lsValid := true } .pPort (.bool true)) := by
  rw [trySend, hlimit]
  rfl

end Outcomes

/-- Settles O40: the order the free places give is a permutation of the set, and the frame is TM.BUILD's. -/
theorem trySendSuppressesOrSends : Obligations.TrySendSuppressesOrSends := by
  refine fun label color now s => ⟨fun hlabel => ?_, fun hlabel hlimit => ?_, fun hlabel hlimit => ?_⟩
  · exact sendTelemetry_of_not_ascii (asciiLabel_eq_false_iff.mpr hlabel)
  · rw [exec_tmTrysend, sendTelemetry_of_ascii (asciiLabel_iff.mpr hlabel)]
    exact trySend_of_suppressed (suppressed_iff.mpr hlimit)
  · have hascii := asciiLabel_iff.mpr hlabel
    refine ⟨buildFrame label color, arrange (Config.notifyPlace s.free) s.conn, s.free + 1,
      exec_tmBuild_eq_next.mpr ⟨hascii, rfl⟩, arrange_perm _ _, ?_⟩
    rw [exec_tmTrysend, sendTelemetry_of_ascii hascii]
    exact trySend_of_not_suppressed (suppressed_eq_false_iff.mpr hlimit)

/-! ### What a telemetry send reports -/

section Sends

variable {i : Instr} {now : Nat} {s t : State}

/-- Every telemetry send is the rate-limited send of some label and colour (R167, R184). -/
theorem exec_of_sendsAt (hi : SendsAt i now) (s : State) :
    ∃ label color, exec i s = sendTelemetry label color now s := by
  rcases hi with ⟨label, color, rfl⟩ | ⟨mv, rfl⟩ | ⟨mv, rfl⟩ <;> exact ⟨_, _, rfl⟩

theorem not_sent_of_suppressed_answer : ¬ Sent i s (answered s .pPort (.bool false)) := by
  simp [Sent, answered]

/-- A telemetry send that completes was suppressed and changed nothing, or it reports that it sent and recorded its
time. -/
theorem completed_send_cases (hi : SendsAt i now) (h : exec i s = .next t) :
    (s.suppressed now = true ∧ t = answered s .pPort (.bool false)) ∨
    (s.suppressed now = false ∧ Sent i s t ∧ t.lsValid = true ∧ t.lastSend = now) := by
  obtain ⟨label, color, hexec⟩ := exec_of_sendsAt hi s
  obtain ⟨-, htry⟩ := sendTelemetry_eq_next.mp (hexec.symm.trans h)
  cases hlimit : s.suppressed now with
  | true =>
    rw [trySend_of_suppressed hlimit] at htry
    cases htry
    exact .inl ⟨rfl, rfl⟩
  | false =>
    rw [trySend_of_not_suppressed hlimit] at htry
    cases htry
    exact .inr ⟨rfl, ⟨h, rfl⟩, rfl, rfl⟩

/-- A telemetry send that reports a send was not suppressed, and recorded its time. -/
theorem recorded_of_sent (hi : SendsAt i now) (h : Sent i s t) :
    s.suppressed now = false ∧ t.lsValid = true ∧ t.lastSend = now := by
  rcases completed_send_cases hi h.1 with ⟨-, rfl⟩ | ⟨hlimit, -, hrecorded⟩
  · exact absurd h not_sent_of_suppressed_answer
  · exact ⟨hlimit, hrecorded⟩

end Sends

/-! ### The recorded time along a run (R165) -/

/-- A send was recorded, at `now` or later. -/
def SentSince (now : Nat) (s : State) : Prop := s.lsValid = true ∧ now ≤ s.lastSend

section Recorded

variable {now : Nat} {s t : State}

/-- Only an unsuppressed send writes the recorded time, and it moves it forward. -/
theorem exec_keeps_sentSince {i : Instr} (h : exec i s = .next t) (hs : SentSince now s) : SentSince now t := by
  obtain ⟨hvalid, hsince⟩ := hs
  cases exec_completes h with
  | sent label color later hi hlimit =>
    have hapart : s.lastSend + 500 ≤ later := (suppressed_eq_false_iff.mp hlimit).resolve_left (by simp [hvalid])
    exact ⟨rfl, show now ≤ later by omega⟩
  | replied | frameWritten | connected | disconnected | notified | constructed | constructionFailed =>
    exact ⟨hvalid, hsince⟩

theorem step_keeps_sentSince (h : step s = .next t) (hs : SentSince now s) : SentSince now t := by
  rcases step_cases h with ⟨-, -, rfl⟩ | ⟨port, c, taken, hserves, hdone⟩
  · exact hs
  obtain ⟨es, ps, turn, free, rfl⟩ := taken_of_serves hserves
  rcases hdone with ⟨why, rfl⟩ | ⟨i, -, -, hexec⟩
  · exact hs
  · exact exec_keeps_sentSince hexec hs

theorem runs_keeps_sentSince (hrun : Runs s t) (hs : SentSince now s) : SentSince now t := by
  induction hrun with
  | refl => exact hs
  | tail _ hstep ih => exact step_keeps_sentSince hstep ih

end Recorded

/-- Settles O42: the recorded time of a send never moves back along a run, and a later send is tested against it. -/
theorem sendsAreAtLeastFiveHundredApart : Obligations.SendsAreAtLeastFiveHundredApart := by
  intro i j now later s t u hi hj hsent hrun
  obtain ⟨-, hvalid, hlast⟩ := recorded_of_sent hi hsent
  obtain ⟨hvalid, hsince⟩ := runs_keeps_sentSince hrun ⟨hvalid, hlast.ge⟩
  refine ⟨fun v hsent' => ?_, fun hlater v hexec => ?_, fun v hexec hnot => ?_⟩
  · obtain ⟨hlimit, -⟩ := recorded_of_sent hj hsent'
    have hapart := (suppressed_eq_false_iff.mp hlimit).resolve_left (by simp [hvalid])
    omega
  · rcases completed_send_cases hj hexec with ⟨hlimit, -⟩ | ⟨-, hsent', -, hlast'⟩
    · exact absurd (suppressed_iff.mp hlimit).2 (Nat.not_lt_of_le hlater)
    · exact ⟨hsent', hlast'⟩
  · rcases completed_send_cases hj hexec with ⟨-, hv⟩ | ⟨-, hsent', -⟩
    · exact hv
    · exact absurd hsent' hnot

end Sys2Proof.Machine
end

section
/-! The telemetry frame (R161, R162): the colour the parser reads, and the fields of the frame TM.BUILD packs. -/

namespace Sys2Proof.Machine

open Sys2Proof.Claims

/-! ### The colour of a string (R162) -/

theorem hexDigit_eq_some {b : Byte} {d : Nat} : hexDigit b = some d ↔ IsHexDigit b d := by
  unfold hexDigit IsHexDigit
  split
  · rw [Option.some.injEq]; omega
  · split
    · rw [Option.some.injEq]; omega
    · split
      · rw [Option.some.injEq]; omega
      · simp only [reduceCtorEq, false_iff]; omega

/-- The digit fold reads a text exactly when every byte is a digit. -/
theorem hexValue_eq_some {v n : Nat} {t : List Byte} :
    hexValue v t = some n ↔
      ∃ ds, List.Forall₂ IsHexDigit t ds ∧ n = ds.foldl (fun v d => 16 * v + d) v := by
  induction t generalizing v with
  | nil => simp [hexValue, eq_comm]
  | cons b t ih =>
    rw [hexValue]
    cases hb : hexDigit b with
    | none =>
      have hnot d : ¬ IsHexDigit b d := fun h => by simp [hexDigit_eq_some.mpr h] at hb
      simp [List.forall₂_cons_left_iff, hnot]
    | some e =>
      have hdigit d : IsHexDigit b d ↔ e = d := by rw [← hexDigit_eq_some, hb, Option.some.injEq]
      simp [List.forall₂_cons_left_iff, hdigit, ih]

theorem stripHexMark_mark (t : List Byte) : stripHexMark (0x30 :: 0x78 :: t) = t := rfl

theorem stripHexMark_of_no_mark {s : List Byte} (h : ∀ t, s ≠ 0x30 :: 0x78 :: t) : stripHexMark s = s := by
  unfold stripHexMark
  split
  · next b0 b1 t =>
    refine if_neg ?_
    rintro ⟨rfl, rfl⟩
    exact h t rfl
  · rfl

/-- The mark is no part of a number without one: "x" is no digit. -/
theorem not_forall₂_isHexDigit_mark (t : List Byte) (ds : List Nat) :
    ¬ List.Forall₂ IsHexDigit (0x30 :: 0x78 :: t) ds := by
  intro h
  obtain ⟨_, _, -, h, -⟩ := List.forall₂_cons_left_iff.mp h
  obtain ⟨d, _, hx, -, -⟩ := List.forall₂_cons_left_iff.mp h
  exact absurd (hexDigit_eq_some.mpr hx) (by simp [hexDigit])

/-- A string is a number exactly when what remains without the mark is one or more digits. -/
theorem isHexNumber_iff {s : List Byte} {ds : List Nat} :
    IsHexNumber s ds ↔ stripHexMark s ≠ [] ∧ List.Forall₂ IsHexDigit (stripHexMark s) ds := by
  by_cases hmark : ∃ t, s = 0x30 :: 0x78 :: t
  · obtain ⟨t, rfl⟩ := hmark
    rw [stripHexMark_mark]
    constructor
    · rintro ⟨t', rfl | h, hne, hdigits⟩
      · exact absurd hdigits (not_forall₂_isHexDigit_mark t ds)
      · cases h; exact ⟨hne, hdigits⟩
    · exact fun ⟨hne, hdigits⟩ => ⟨t, .inr rfl, hne, hdigits⟩
  · rw [stripHexMark_of_no_mark (not_exists.mp hmark)]
    constructor
    · rintro ⟨t', rfl | h, hne, hdigits⟩
      · exact ⟨hne, hdigits⟩
      · exact absurd ⟨t', h⟩ hmark
    · exact fun ⟨hne, hdigits⟩ => ⟨s, .inl rfl, hne, hdigits⟩

/-- The parser's colour is the one the statements speak of. -/
theorem isColour_parseColor (s : List Byte) : IsColour s (parseColor s).toNat := by
  unfold parseColor
  split
  · next hnil => exact .inr ⟨fun ⟨ds, h⟩ => (isHexNumber_iff.mp h).1 hnil, rfl⟩
  · next hne =>
    split
    · next hnone =>
      refine .inr ⟨fun ⟨ds, h⟩ => ?_, rfl⟩
      have hsome := hexValue_eq_some (v := 0).mpr ⟨ds, (isHexNumber_iff.mp h).2, rfl⟩
      exact absurd (hnone.symm.trans hsome) (by simp)
    · next n hsome =>
      obtain ⟨ds, hdigits, rfl⟩ := hexValue_eq_some.mp hsome
      exact .inl ⟨ds, isHexNumber_iff.mpr ⟨hne, hdigits⟩, BitVec.toNat_ofNat _ _⟩

/-! ### The fields of a telemetry frame (R161) -/

theorem labelBytes_length (label : List Byte) : (labelBytes label).length = 8 := by
  rw [labelBytes, List.length_map, List.length_range, LABEL_LEN]

theorem buildFrame_getElem?_label (label color : List Byte) {k : Nat} (hk : k < 8) :
    (buildFrame label color)[k]? = some (if h : k < label.length then label[k] else 0) := by
  rw [buildFrame, List.getElem?_append_left (by rwa [labelBytes_length]), labelBytes, List.getElem?_map,
    List.getElem?_range (n := LABEL_LEN) hk, Option.map_some, List.getD_eq_getElem?_getD]
  split
  · next h => rw [List.getElem?_eq_getElem h, Option.getD_some]
  · next h => rw [List.getElem?_eq_none (Nat.le_of_not_lt h), Option.getD_none]

theorem buildFrame_getElem?_color (label color : List Byte) (k : Nat) :
    (buildFrame label color)[8 + k]? = (colorBytes (parseColor color))[k]? := by
  rw [buildFrame, List.getElem?_append_right (by rw [labelBytes_length]; omega), labelBytes_length,
    Nat.add_sub_cancel_left]

/-- The colour's bytes as digits to the base 256. -/
theorem colorBytes_toNat (c : BitVec 24) :
    (colorBytes c).map (fun b => b.toNat) = [c.toNat / 65536, c.toNat / 256 % 256, c.toNat % 256] := by
  have hc := c.isLt
  simp only [colorBytes, List.map_cons, List.map_nil, BitVec.extractLsb'_toNat, Nat.shiftRight_eq_div_pow,
    Nat.reducePow, Nat.div_one]
  congr 1
  omega

theorem buildFrame_color_toNat (label color : List Byte) (k : Nat) :
    ((buildFrame label color)[8 + k]?).map (fun b => b.toNat) =
      [(parseColor color).toNat / 65536, (parseColor color).toNat / 256 % 256, (parseColor color).toNat % 256][k]? := by
  rw [buildFrame_getElem?_color, ← List.getElem?_map, colorBytes_toNat]

theorem exec_tmBuild_of_not_ascii {label color : List Byte} {s : State} (hascii : asciiLabel label = false) :
    exec (.tmBuild label color) s = .refused .nonAsciiLabel := if_neg (by simp [hascii])

/-- Settles O39: the frame is the padded label and the three bytes of the parsed colour. -/
theorem buildPacksLabelAndColour : Obligations.BuildPacksLabelAndColour := by
  refine fun label color s => ⟨fun hlabel => ?_, fun hlabel => ?_⟩
  · exact exec_tmBuild_of_not_ascii (asciiLabel_eq_false_iff.mpr hlabel)
  · exact ⟨buildFrame label color, (parseColor color).toNat,
      exec_tmBuild_eq_next.mpr ⟨asciiLabel_iff.mpr hlabel, rfl⟩, buildFrame_length label color,
      fun k hk => buildFrame_getElem?_label label color hk, isColour_parseColor color,
      buildFrame_color_toNat label color 0, buildFrame_color_toNat label color 1,
      buildFrame_color_toNat label color 2⟩

end Sys2Proof.Machine
end

section
/-! The battery report (R166, R167, R184): the label and the colour string of a voltage, and the send of the two. -/

namespace Sys2Proof.Machine

open Sys2Proof.Claims

/-! ### The label of a voltage (R166, R167) -/

/-- A decimal digit's byte is the character code of that digit. -/
theorem digitByte_eq_digitChar {d : Nat} (hd : d < 10) : digitByte d = BitVec.ofNat 8 d.digitChar.toNat := by
  have h : ∀ d : Fin 10, digitByte d = BitVec.ofNat 8 (Nat.digitChar d).toNat := by decide
  exact h ⟨d, hd⟩

theorem ascii_toString (n : Nat) :
    ascii (toString n) = (Nat.toDigits 10 n).map fun ch => BitVec.ofNat 8 ch.toNat := by
  simp [ascii]

theorem ascii_toString_of_lt {d : Nat} (hd : d < 10) : ascii (toString d) = [digitByte d] := by
  rw [ascii_toString, Nat.toDigits_of_lt_base hd, digitByte_eq_digitChar hd, List.map_singleton]

theorem decimalAux_eq_ascii {fuel n : Nat} (h : n < fuel) : decimalAux fuel n = ascii (toString n) := by
  induction fuel generalizing n with
  | zero => omega
  | succ fuel ih =>
    rw [decimalAux]
    split
    · next hn => exact (ascii_toString_of_lt hn).symm
    · next hn =>
      rw [ih (by omega), ascii_toString, ascii_toString n,
        Nat.toDigits_of_base_le (by decide) (Nat.le_of_not_lt hn), List.map_append, List.map_singleton,
        digitByte_eq_digitChar (Nat.mod_lt _ (by decide))]

/-- The model's decimal is the library's. -/
theorem decimal_eq_ascii (n : Nat) : decimal n = ascii (toString n) := decimalAux_eq_ascii (Nat.lt_succ_self n)

/-- The rounding of a voltage in millivolts to hundredths of a volt. -/
theorem roundHalfEven_millivolts (mv : Nat) :
    10 * roundHalfEven (100 * mv) 1000 ≤ mv + 5 ∧ mv ≤ 10 * roundHalfEven (100 * mv) 1000 + 5 ∧
      (mv % 10 = 5 → roundHalfEven (100 * mv) 1000 % 2 = 0) := by
  unfold roundHalfEven
  split
  · omega
  · split
    · omega
    · split <;> omega

theorem isBatteryLabel_batteryLabel (mv : Millivolts) : IsBatteryLabel mv (batteryLabel mv.toNat 1000) := by
  obtain ⟨hlow, hhigh, heven⟩ := roundHalfEven_millivolts mv.toNat
  refine ⟨roundHalfEven (100 * mv.toNat) 1000, hlow, hhigh, heven, ?_⟩
  rw [batteryLabel, fmt2, decimal_eq_ascii, ascii_toString_of_lt (Nat.mod_lt _ (by decide)),
    ascii_toString_of_lt (Nat.mod_lt _ (by decide)), ← Nat.mod_mul_right_div_self]
  simp [ascii]

theorem asciiLabel_append (a b : List Byte) : asciiLabel (a ++ b) = (asciiLabel a && asciiLabel b) := List.all_append

theorem digitByte_toNat_lt {d : Nat} (hd : d < 10) : (digitByte d).toNat < 0x80 := by
  rw [digitByte, BitVec.toNat_ofNat]
  omega

theorem asciiLabel_digitByte {d : Nat} (hd : d < 10) : asciiLabel [digitByte d] = true := by
  simpa [asciiLabel] using digitByte_toNat_lt hd

theorem asciiLabel_decimalAux (fuel n : Nat) : asciiLabel (decimalAux fuel n) = true := by
  induction fuel generalizing n with
  | zero => rfl
  | succ fuel ih =>
    rw [decimalAux]
    split
    · next hn => exact asciiLabel_digitByte hn
    · rw [asciiLabel_append, ih, asciiLabel_digitByte (Nat.mod_lt n (by decide)), Bool.true_and]

/-- A battery report is never refused: its label is digits, a point, a space and a letter. -/
theorem asciiLabel_batteryLabel (num den : Nat) : asciiLabel (batteryLabel num den) = true := by
  have htenths c : (digitByte (c % 100 / 10)).toNat < 0x80 := digitByte_toNat_lt (by omega)
  have hhundredths c : (digitByte (c % 10)).toNat < 0x80 := digitByte_toNat_lt (Nat.mod_lt c (by decide))
  rw [batteryLabel, fmt2, asciiLabel_append, asciiLabel_append, decimal, asciiLabel_decimalAux, Bool.true_and]
  simp [asciiLabel, htenths, hhundredths]

/-! ### The colour of a voltage (R167) -/

/-- The comparison by cross products is the comparison of the rationals. -/
theorem atLeast_iff {num den : Nat} {t : Nat × Nat} (hden : 0 < den) (ht : 0 < t.2) :
    atLeast num den t = true ↔ (t.1 : ℚ) / t.2 ≤ (num : ℚ) / den := by
  rw [atLeast, decide_eq_true_iff, div_le_div_iff₀ (by exact_mod_cast ht) (by exact_mod_cast hden)]
  norm_cast

theorem colorString_batteryColor (mv : Millivolts) : colorString (batteryColor mv.toNat 1000) = batteryColour mv := by
  have hgreen : atLeast mv.toNat 1000 V_GREEN = true ↔ (38 / 5 : ℚ) ≤ (mv.toNat : ℚ) / 1000 := by
    simpa [V_GREEN] using atLeast_iff (num := mv.toNat) (t := V_GREEN) (by decide : 0 < 1000) (by decide)
  have hyellow : atLeast mv.toNat 1000 V_YELLOW = true ↔ (7 : ℚ) ≤ (mv.toNat : ℚ) / 1000 := by
    simpa [V_YELLOW] using atLeast_iff (num := mv.toNat) (t := V_YELLOW) (by decide : 0 < 1000) (by decide)
  simp only [batteryColor, batteryColour, hgreen, hyellow]
  split
  · decide
  · split <;> decide

/-! ### The battery report -/

theorem trySend_completes (label color : List Byte) (now : Nat) (s : State) :
    ∃ t, trySend label color now s = .next t := by
  rcases trySend_cases label color now s with ⟨-, h⟩ | ⟨-, h⟩ <;> exact ⟨_, h⟩

theorem exec_battery {mv : Millivolts} {now : Nat} {i : Instr} (hi : i = .tmBatt mv now ∨ i = .agBatt mv now)
    (s : State) : exec i s = exec (.tmTrysend (batteryLabel mv.toNat 1000) (batteryColour mv) now) s := by
  rw [← colorString_batteryColor]
  rcases hi with rfl | rfl <;> rfl

/-- Settles O41: the report is the rate-limited send of an ASCII label, which completes. -/
theorem batteryReportIsATelemetrySend : Obligations.BatteryReportIsATelemetrySend := by
  intro mv now i s hi
  obtain ⟨t, ht⟩ := trySend_completes (batteryLabel mv.toNat 1000) (batteryColour mv) now s
  have hsend := (sendTelemetry_of_ascii (asciiLabel_batteryLabel mv.toNat 1000)).trans ht
  exact ⟨batteryLabel mv.toNat 1000, t, isBatteryLabel_batteryLabel mv, (exec_battery hi s).trans hsend, hsend⟩

end Sys2Proof.Machine
end

section
/-! The link agent (R181 to R185): the lifecycle's edges, the payload the construction builds, and the four ends of
AG.INIT. -/

namespace Sys2Proof.Machine

open Sys2Proof.Claims

/-! ### The public contract (R183, R184) -/

theorem exec_agBatt (mv : Millivolts) (now : Nat) (s : State) : exec (.agBatt mv now) s = exec (.tmBatt mv now) s := rfl

/-- Settles O19, from the five operations' own equations. -/
theorem contractOperationsAreTheirTargets : Obligations.ContractOperationsAreTheirTargets := fun s =>
  ⟨exec_agIsconn s, exec_agGetaxis s, exec_agGetbtn s, exec_agGetservo s, fun mv now => exec_agBatt mv now s⟩

/-! ### The lifecycle (R185) -/

section Lifecycle

variable {s t : State}

theorem position_eq_unconstructed (h : s.initd = false) : s.position = .unconstructed := by
  simp [State.position, h]

/-- With INITD kept, the position moves only between the two constructed ones, and CONNECTED moves with it. -/
theorem position_moves_with_connected (hne : t.position ≠ s.position) (hinitd : t.initd = s.initd) :
    (s.connected = false ∧ t.connected = true ∧ s.position = .idleAdvertising ∧ t.position = .connected) ∨
    (s.connected = true ∧ t.connected = false ∧ s.position = .connected ∧ t.position = .idleAdvertising) := by
  cases hs : s.initd with
  | false => exact absurd ((position_eq_unconstructed (hinitd.trans hs)).trans (position_eq_unconstructed hs).symm) hne
  | true =>
    simp only [State.position, hinitd, hs, if_true] at hne ⊢
    cases hsc : s.connected <;> cases htc : t.connected <;> simp [hsc, htc] at hne ⊢

/-- A connect leaves some handle present (R121). -/
theorem connected_of_connInsert {h : Nat} {conn : List Nat} (ht : t.conn = connInsert h conn) : t.connected = true :=
  connected_iff.mpr ⟨h, ht ▸ mem_connInsert.mpr (.inl rfl)⟩

/-- A disconnect makes no handle present (R122). -/
theorem connected_of_connErase {h : Nat} (ht : t.conn = connErase h s.conn) (hconn : t.connected = true) :
    s.connected = true := by
  obtain ⟨g, hg⟩ := connected_iff.mp hconn
  exact connected_iff.mpr ⟨g, (mem_connErase.mp (ht ▸ hg)).1⟩

end Lifecycle

/-- Settles O24: of the eight ways to complete only the construction, a connect and a disconnect touch INITD or CONN. -/
theorem lifecycleMovesOnlyAlongItsEdges : Obligations.LifecycleMovesOnlyAlongItsEdges := by
  intro i s t h hne
  cases exec_completes h with
  | replied | frameWritten | notified | sent | constructionFailed => exact absurd rfl hne
  | constructed name p events hi hnew => exact .inl ⟨position_eq_unconstructed hnew, name, hi⟩
  | connected handle hi =>
    rcases position_moves_with_connected hne rfl with ⟨-, -, hs, ht⟩ | ⟨-, htc, -, -⟩
    · exact .inr (.inl ⟨hs, ht, handle, hi⟩)
    · cases htc.symm.trans (connected_of_connInsert rfl)
  | disconnected handle hi =>
    rcases position_moves_with_connected hne rfl with ⟨hsc, htc, -, -⟩ | ⟨-, -, hs, ht⟩
    · cases hsc.symm.trans (connected_of_connErase rfl htc)
    · exact .inr (.inr ⟨hs, ht, handle, hi⟩)

/-! ### The payload of the construction (R181, R182) -/

/-- The three records AG.INIT advertises, with the flags and service-UUID records written out byte by byte. -/
def builtPayload (c : Config) (name : List Byte) : List Byte :=
  [2, c.tFlags, c.advFlags] ++ tlv c.tName name ++ [17, c.tUuid128] ++ c.svcUuid.toList

section Payload

variable {c : Config} {name : List Byte} (hcodes : c.typeCodes.Nodup)
include hcodes

theorem constructionPayload_eq_builtPayload (hname : name.length ≤ 254) :
    constructionPayload c name = .ok (builtPayload c name) := by
  refine constructionPayload_eq_ok.mpr ⟨typeCodesDistinct_iff.mpr hcodes, hname, ?_⟩
  simp [builtPayload, record_eq_tlv, tlv]

theorem builtPayload_length (hname : name.length ≤ 254) : (builtPayload c name).length = 23 + name.length :=
  constructionPayload_length (constructionPayload_eq_builtPayload hcodes hname)

end Payload

/-- A name that no length byte can count has no record, hence no payload (R101). -/
theorem constructionPayload_refuses {c : Config} {name : List Byte} (hname : 254 < name.length) :
    ∃ r, constructionPayload c name = .error r := by
  cases h : constructionPayload c name with
  | error r => exact ⟨r, rfl⟩
  | ok p =>
    obtain ⟨-, hle, -⟩ := constructionPayload_eq_ok.mp h
    omega

/-! ### AG.INIT on an unconstructed block (R181) -/

theorem exec_agInit_eq (rstat : RStat) (name : List Byte) (s : State) :
    exec (.agInit rstat name) s = execAgInit rstat name s := rfl

section Admission

variable {name : List Byte} {s : State} (hnew : s.initd = false)
include hnew

/-- A payload within ADV_CAP is the only one the radio is asked to advertise. -/
theorem exec_agInit_of_distinct (hcodes : s.cfg.typeCodes.Nodup) (hname : name.length ≤ 254) (rstat : RStat) :
    exec (.agInit rstat name) s =
      if ADV_CAP < 23 + name.length then .refused .payloadTooLong
      else construct rstat (builtPayload s.cfg name) s := by
  rw [exec_agInit_eq, execAgInit, hnew, constructionPayload_eq_builtPayload hcodes hname,
    ← builtPayload_length hcodes hname]
  rfl

theorem exec_agInit_of_le_eight (hcodes : s.cfg.typeCodes.Nodup) (hname : name.length ≤ 8) (rstat : RStat) :
    exec (.agInit rstat name) s = construct rstat (builtPayload s.cfg name) s :=
  (exec_agInit_of_distinct hnew hcodes (by omega) rstat).trans (if_neg (by rw [ADV_CAP]; omega))

theorem exec_agInit_of_eight_lt (hcodes : s.cfg.typeCodes.Nodup) (hlong : 8 < name.length) (hname : name.length ≤ 254)
    (rstat : RStat) : exec (.agInit rstat name) s = .refused .payloadTooLong :=
  (exec_agInit_of_distinct hnew hcodes hname rstat).trans (if_pos (by rw [ADV_CAP]; omega))

theorem exec_agInit_of_254_lt (hname : 254 < name.length) (rstat : RStat) :
    ∃ r, exec (.agInit rstat name) s = .refused r := by
  obtain ⟨r, hr⟩ := constructionPayload_refuses (c := s.cfg) hname
  exact ⟨r, by rw [exec_agInit_eq, execAgInit, hnew, hr]; rfl⟩

end Admission

/-! ### The radio requests (R181, R192) -/

section Requests

variable (p : List Byte) (s : State)

theorem construct_allSucceeded :
    construct .allSucceeded p s =
      .next (answered { s with
        advp := p, initd := true,
        oport := s.oport ++ [.radioActivate, .irqRegister, gattRegistration s.cfg, .advertise p] } .pPort .done) := by
  rw [construct_eq, State.emits_emits, State.emits_emits]
  rfl

/-- The state a failing request leaves: its events emitted, InitError answered. -/
def failedConstruction (which : InitStage) (events : List OutEvent) : State :=
  { s with oport := s.oport ++ events, answers := s.answers ++ [(.pPort, .initError which)] }

theorem construct_activationFailed :
    construct .activationFailed p s = .next (failedConstruction s .activate [.radioActivate]) := construct_eq _ _ _

theorem construct_registrationFailed :
    construct .registrationFailed p s =
      .next (failedConstruction s .register [.radioActivate, .irqRegister, gattRegistration s.cfg]) := by
  rw [construct_eq, State.emits_emits]
  rfl

theorem construct_advertiseFailed :
    construct .advertiseFailed p s =
      .next (failedConstruction s .advertise
        [.radioActivate, .irqRegister, gattRegistration s.cfg, .advertise p]) := by
  rw [construct_eq, State.emits_emits, State.emits_emits]
  rfl

end Requests

/-! ### The statements -/

/-- Settles O48: `23 + n` is within ADV_CAP exactly when `n` is at most 8. -/
theorem constructionLoadsThePayload : Obligations.ConstructionLoadsThePayload := by
  refine fun name s hnew hcodes => ⟨fun hname => ?_, fun hlong rstat => ?_⟩
  · exact ⟨builtPayload s.cfg name, rfl, builtPayload_length hcodes (by omega),
      (exec_agInit_of_le_eight hnew hcodes hname _).trans (construct_allSucceeded _ s)⟩
  · by_cases hname : name.length ≤ 254
    · exact ⟨_, exec_agInit_of_eight_lt hnew hcodes hlong hname rstat, fun _ => rfl⟩
    · obtain ⟨r, hr⟩ := exec_agInit_of_254_lt hnew (Nat.lt_of_not_le hname) rstat
      exact ⟨r, hr, fun hle => absurd hle hname⟩

/-- Settles O49: an admitted AG.INIT is the sequence of requests, which ends at the one that fails. -/
theorem failedConstructionChangesNoRegister : Obligations.FailedConstructionChangesNoRegister := by
  intro name s hnew hcodes hname
  have hexec rstat := exec_agInit_of_le_eight hnew hcodes hname rstat
  exact ⟨(hexec _).trans (construct_activationFailed _ s), (hexec _).trans (construct_registrationFailed _ s),
    (hexec _).trans (construct_advertiseFailed _ s)⟩

end Sys2Proof.Machine
end

section
/-! Refusals and exceptions (R190, R193, R195 to R199): which operations complete, the reason each refusal gives, and the
writers of the registers. -/

namespace Sys2Proof.Machine

open Sys2Proof.Claims

/-! ### Completion and the contract (R190, R193) -/

section Contract

variable {s : State}

/-- The block has no fault (R190), so what does not complete is refused. -/
theorem exec_next_or_refused (i : Instr) (s : State) : (∃ t, exec i s = .next t) ∨ ∃ r, exec i s = .refused r := by
  cases exec i s with
  | next t => exact .inl ⟨t, rfl⟩
  | refused r => exact .inr ⟨r, rfl⟩
  | fault r => exact nomatch r

/-- Whatever the radio answers, an admitted construction ends in a next state: InitError is a response (R192). -/
theorem construct_completes (rstat : RStat) (p : List Byte) (s : State) : ∃ t, construct rstat p s = .next t := by
  rw [construct_eq]
  cases rstat <;> exact ⟨_, rfl⟩

theorem exec_agInit_completes_iff {rstat : RStat} {name : List Byte} :
    (∃ t, exec (.agInit rstat name) s = .next t) ↔
      s.initd = false ∧ s.cfg.typeCodes.Nodup ∧ name.length ≤ 8 := by
  constructor
  · rintro ⟨t, h⟩
    obtain ⟨hnew, p, hp, hfits, -⟩ := execAgInit_eq_next.mp h
    obtain ⟨hcodes, -, -⟩ := constructionPayload_eq_ok.mp hp
    rw [constructionPayload_length hp, ADV_CAP] at hfits
    exact ⟨hnew, typeCodesDistinct_iff.mp hcodes, by omega⟩
  · rintro ⟨hnew, hcodes, hname⟩
    rw [exec_agInit_of_le_eight hnew hcodes hname]
    exact construct_completes _ _ s

theorem sendTelemetry_completes_iff {label color : List Byte} {now : Nat} :
    (∃ t, sendTelemetry label color now s = .next t) ↔ asciiLabel label = true := by
  simp only [sendTelemetry_eq_next, exists_and_left, and_iff_left_iff_imp]
  exact fun _ => trySend_completes label color now s

theorem not_outsideContract_agInit {rstat : RStat} {name : List Byte} :
    ¬ OutsideContract (.agInit rstat name) s ↔ s.initd = false ∧ s.cfg.typeCodes.Nodup ∧ name.length ≤ 8 := by
  have hfits : ¬ 31 < 23 + name.length ↔ name.length ≤ 8 := by omega
  simp only [OutsideContract, not_or, not_not, Bool.not_eq_true, hfits]

theorem not_outsideContract_advEnc {flags : Byte} {name : Option (List Byte)} {uuids : List (List Byte)}
    {appearance : Option (BitVec 16)} :
    ¬ OutsideContract (.advEnc flags name uuids appearance) s ↔ s.cfg.typeCodes.Nodup ∧
      (∀ n, name = some n → n.length ≤ 254) ∧ (∀ u ∈ uuids, WidthOk u) ∧
      payloadSize name uuids appearance ≤ 255 := by
  simp only [OutsideContract, not_or, not_not, not_exists, not_and, Nat.not_lt]

/-- No label byte of 0x80 or above: the contract of TM.BUILD and TM.TRYSEND. -/
theorem asciiLabel_iff_not_exists {label : List Byte} :
    asciiLabel label = true ↔ ¬ ∃ b ∈ label, 0x80 ≤ b.toNat := by
  rw [← asciiLabel_eq_false_iff, Bool.not_eq_false]

/-- An operation completes exactly within its contract. -/
theorem exec_completes_iff (i : Instr) (s : State) : (∃ t, exec i s = .next t) ↔ ¬ OutsideContract i s := by
  cases i with
  | evConn | evDisc | cfWrite | lnkIsconn | lnkSend | cfRawaxis | cfAxis | cfButton | cfServo | agIsconn | agGetaxis
  | agGetbtn | agGetservo => exact iff_of_true ⟨_, rfl⟩ id
  | evWrite handle char value => cases char <;> exact iff_of_true ⟨_, rfl⟩ id
  | tmBatt mv | agBatt mv =>
    exact iff_of_true (sendTelemetry_completes_iff.mpr (asciiLabel_batteryLabel mv.toNat 1000)) id
  | tmTrysend => exact sendTelemetry_completes_iff.trans asciiLabel_iff_not_exists
  | tmBuild =>
    simp only [exec_tmBuild_eq_next, exists_and_left, exists_eq, and_true]
    exact asciiLabel_iff_not_exists
  | advEnc => simp only [exec_advEnc_eq_next, not_outsideContract_advEnc, exists_and_left, exists_eq, and_true]
  | advDecf | advDecn | advDecs =>
    simp only [exec_advDecf_eq_next, exec_advDecn_eq_next, exec_advDecs_eq_next, OutsideContract, exists_and_left,
      exists_eq, and_true, not_not]
  | agInit => exact exec_agInit_completes_iff.trans not_outsideContract_agInit.symm

end Contract

/-- Settles O25: outside the contract nothing completes, and there is no fault. -/
theorem operationsCompleteExactlyWithinTheirContract : Obligations.OperationsCompleteExactlyWithinTheirContract :=
  fun i s => ⟨fun hout => (exec_next_or_refused i s).resolve_left fun h => (exec_completes_iff i s).mp h hout,
    (exec_completes_iff i s).mpr⟩

/-! ### The E-port (R195, R198) -/

/-- No operation of the E-port has a use outside its contract. -/
theorem not_outsideContract_of_ePort {i : Instr} (hi : i.port = .ePort) (s : State) : ¬ OutsideContract i s := by
  cases i with
  | evConn | evDisc | evWrite | cfWrite => exact id
  | lnkIsconn | lnkSend | cfRawaxis | cfAxis | cfButton | cfServo | tmBuild | tmTrysend | tmBatt | advEnc | advDecf
  | advDecn | advDecs | agInit | agIsconn | agGetaxis | agGetbtn | agGetservo | agBatt => cases hi

/-- Settles O13: the command is answered `invalid`, or it spells an operation of the E-port, which completes. -/
theorem eventsAreAlwaysPerformed : Obligations.EventsAreAlwaysPerformed := by
  intro s c taken hserves
  cases hdec : decodeOn s.cfg .ePort c with
  | error why => exact ⟨_, step_of_serves_invalid hserves hdec⟩
  | ok i =>
    obtain ⟨-, hport⟩ := decodeOn_eq_ok.mp hdec
    rw [step_of_serves hserves hdec]
    exact (exec_completes_iff i taken).mpr (not_outsideContract_of_ePort hport taken)

/-! ### The writers of the registers (R198, R199) -/

section Writers

variable {i : Instr} {s t : State}

/-- Only a telemetry send that reports a send writes the rate limiter's registers (R164). -/
theorem sent_of_rateLimiter_ne (h : exec i s = .next t) (hne : t.lastSend ≠ s.lastSend ∨ t.lsValid ≠ s.lsValid) :
    ∃ now, SendsAt i now ∧ Sent i s t := by
  cases exec_completes h with
  | sent label color now hi => exact ⟨now, hi, h, rfl⟩
  | replied | frameWritten | connected | disconnected | notified | constructed | constructionFailed =>
    exact hne.elim (absurd rfl) (absurd rfl)

/-- Only the first successful AG.INIT writes the payload register and INITD (R181). -/
theorem constructs_of_payload_ne (h : exec i s = .next t) (hne : t.advp ≠ s.advp ∨ t.initd ≠ s.initd) :
    s.initd = false ∧ ∃ name, i = .agInit .allSucceeded name := by
  cases exec_completes h with
  | constructed name p events hi hnew => exact ⟨hnew, name, hi⟩
  | replied | frameWritten | connected | disconnected | notified | sent | constructionFailed =>
    exact hne.elim (absurd rfl) (absurd rfl)

theorem exec_keeps_turn (h : exec i s = .next t) : t.turn = s.turn := by
  cases exec_completes h <;> rfl

end Writers

/-- Settles O14, register by register. -/
theorem registersHaveOnlyTheirWriters : Obligations.RegistersHaveOnlyTheirWriters := by
  intro i s t h
  obtain ⟨heport, hpport⟩ := exec_keeps_queues h
  exact ⟨writes_of_frame_ne h, connects_of_conn_ne h, sent_of_rateLimiter_ne h, constructs_of_payload_ne h,
    (exec_answers_once h).1, heport, hpport, exec_keeps_turn h⟩

/-! ### The reasons of the encoder (R101, R193) -/

section Encoder

variable {c : Config} {flags : Byte} {name : Option (List Byte)} {uuids : List (List Byte)}
  {appearance : Option (BitVec 16)}

theorem typeCodesDistinct_eq_false (hcodes : ¬ c.typeCodes.Nodup) : typeCodesDistinct c = false := decide_eq_false hcodes

/-- One UUID of another width refuses the list, wherever it stands. -/
theorem uuidRecords_of_bad_width (hbad : ∃ u ∈ uuids, ¬ WidthOk u) : uuidRecords c uuids = .error .badUuidWidth := by
  induction uuids with
  | nil => simp at hbad
  | cons u us ih =>
    cases hcode : uuidCode c u.length with
    | none => rw [uuidRecords, hcode]
    | some code =>
      obtain ⟨hu, -⟩ := uuidCode_eq_some.mp hcode
      have hlater : ∃ v ∈ us, ¬ WidthOk v := by simpa [hu] using hbad
      rw [uuidRecords, hcode, ih hlater]

theorem encodePayload_of_not_distinct (hcodes : ¬ c.typeCodes.Nodup) :
    encodePayload c flags name uuids appearance = .error .badConfiguration := by
  simp [encodePayload, typeCodesDistinct_eq_false hcodes]

theorem encodePayload_of_long_name {n : List Byte} (hcodes : c.typeCodes.Nodup) (hn : 254 < n.length) :
    encodePayload c flags (some n) uuids appearance = .error .valueTooLong := by
  simp [encodePayload, typeCodesDistinct_iff.mpr hcodes, nameRecord, hn]

theorem encodePayload_of_bad_width (hcodes : c.typeCodes.Nodup) (hname : ∀ n, name = some n → n.length ≤ 254)
    (hbad : ∃ u ∈ uuids, ¬ WidthOk u) : encodePayload c flags name uuids appearance = .error .badUuidWidth := by
  simp [encodePayload, typeCodesDistinct_iff.mpr hcodes, nameRecord_eq_ok.mpr ⟨hname, rfl⟩,
    uuidRecords_of_bad_width hbad]

end Encoder

/-! ### The reasons of the operations (R193) -/

section Reasons

variable {s : State} {flags : Byte} {name : Option (List Byte)} {uuids : List (List Byte)}
  {appearance : Option (BitVec 16)}

theorem exec_advEnc_of_error {r : Refusal} (h : encodePayload s.cfg flags name uuids appearance = .error r) :
    exec (.advEnc flags name uuids appearance) s = .refused r := by
  change execAdvEnc flags name uuids appearance s = _
  rw [execAdvEnc, h]

theorem exec_advEnc_of_long_result (hcodes : s.cfg.typeCodes.Nodup) (hname : ∀ n, name = some n → n.length ≤ 254)
    (huuids : ∀ u ∈ uuids, WidthOk u) (hlong : 255 < payloadSize name uuids appearance) :
    exec (.advEnc flags name uuids appearance) s = .refused .resultTooLong := by
  change execAdvEnc flags name uuids appearance s = _
  rw [execAdvEnc, encodePayload_eq_ok.mpr ⟨hcodes, hname, huuids, rfl⟩]
  exact if_pos ((payloadOf_length ..).symm ▸ hlong)

theorem completeDecoding_of_not_distinct (hcodes : ¬ s.cfg.typeCodes.Nodup) (r : Result) :
    completeDecoding r s = .refused .badConfiguration := by
  simp [completeDecoding, typeCodesDistinct_eq_false hcodes]

theorem exec_agInit_of_initd (hinitd : s.initd = true) (rstat : RStat) (name : List Byte) :
    exec (.agInit rstat name) s = .refused .alreadyConstructed := if_pos hinitd

theorem exec_agInit_of_not_distinct (hnew : s.initd = false) (hcodes : ¬ s.cfg.typeCodes.Nodup) (rstat : RStat)
    (name : List Byte) : exec (.agInit rstat name) s = .refused .badConfiguration := by
  rw [exec_agInit_eq, execAgInit, hnew, constructionPayload, encodePayload_of_not_distinct hcodes]
  rfl

end Reasons

/-- Settles O26: each reason is the first test that fails, in the order of the encoder and of AG.INIT. -/
theorem refusalReasons : Obligations.RefusalReasons := by
  refine fun s => ⟨fun rstat name hinitd => exec_agInit_of_initd hinitd rstat name, fun hcodes => ?_, fun hcodes => ?_,
    fun label color hlabel => ?_⟩
  · exact ⟨fun _ _ _ _ => exec_advEnc_of_error (encodePayload_of_not_distinct hcodes),
      fun _ _ => completeDecoding_of_not_distinct hcodes _, fun _ => completeDecoding_of_not_distinct hcodes _,
      fun _ => completeDecoding_of_not_distinct hcodes _, fun hnew => exec_agInit_of_not_distinct hnew hcodes⟩
  · exact ⟨fun hnew rstat _ hlong hname => exec_agInit_of_eight_lt hnew hcodes hlong hname rstat,
      fun _ _ _ _ hname => exec_advEnc_of_error (encodePayload_of_long_name hcodes hname),
      fun _ _ _ _ hname hbad => exec_advEnc_of_error (encodePayload_of_bad_width hcodes hname hbad),
      fun _ _ _ _ => exec_advEnc_of_long_result hcodes⟩
  · have hascii := asciiLabel_eq_false_iff.mpr hlabel
    exact ⟨exec_tmBuild_of_not_ascii hascii, fun _ => sendTelemetry_of_not_ascii hascii⟩

end Sys2Proof.Machine
end
